-- ==== Sys2Proof/Word.lean ====
section
/-! DEFINITION. The word types of the PICA f24 shader block: 32-bit program, descriptor and register
words, bytes of guest memory, 24-bit f24 values and 4-component registers (spec 00_scope.md R5, R6,
10_state.md R16, 40_f24_alu.md R90). -/

namespace Sys2Proof

/-- A 32-bit word: an instruction, an operand descriptor, a host register, an address register. -/
abbrev Word := BitVec 32

/-- A byte of guest memory (20_memory.md R40). -/
abbrev Byte := BitVec 8

/-- The raw 24 bits of an f24 value (R90): sign 23, exponent 22:16, mantissa 15:0. The raw pattern is
architectural: the host loads it and MOV copies it bit for bit (R92, R146). -/
abbrev F24 := BitVec 24

/-- A 4-component register (R5 `P_LANES`, R7): `x y z w` are components 0 1 2 3. -/
structure Vec4 where
  x : F24
  y : F24
  z : F24
  w : F24
deriving DecidableEq, Repr

/-- The same component in all four lanes. -/
def Vec4.splat (a : F24) : Vec4 := ⟨a, a, a, a⟩

/-- One function on every component. -/
def Vec4.map (f : F24 → F24) (a : Vec4) : Vec4 := ⟨f a.x, f a.y, f a.z, f a.w⟩

/-- One function on the components of two vectors, lane by lane. -/
def Vec4.map2 (f : F24 → F24 → F24) (a b : Vec4) : Vec4 :=
  ⟨f a.x b.x, f a.y b.y, f a.z b.z, f a.w b.w⟩

/-- One function on the components of three vectors, lane by lane. -/
def Vec4.map3 (f : F24 → F24 → F24 → F24) (a b c : Vec4) : Vec4 :=
  ⟨f a.x b.x c.x, f a.y b.y c.y, f a.z b.z c.z, f a.w b.w c.w⟩

/-- The component with number `n` (R7, R71): 0 = x, 1 = y, 2 = z, 3 = w. -/
def Vec4.lane (a : Vec4) (n : BitVec 2) : F24 :=
  if n = 0 then a.x else if n = 1 then a.y else if n = 2 then a.z else a.w

/-- The two shader units (00_scope.md R2). -/
inductive UnitId where
  | vs
  | gs
deriving DecidableEq, Repr

end Sys2Proof
end

