-- ==== Sys2Proof/Config.lean ====
section
/-! DEFINITION. What an implementation fixes and the values the spec leaves open (00_scope.md R5,
93_implementation_defined.md section 1). Every `opaque` constant has no body, so nothing can be
proved of its value: a claim holds for every value it could have. -/

namespace Sys2Proof.Config

/-- Where a NaN result comes from: the sign and the payload of a NaN result are unspecified (R92, U6),
and the ALU is a function of its operands alone (R120). -/
inductive NanSource where
  | add
  | mul
  | rcp
  | rsq
  | ex2
  | lg2
  | fromF32
deriving DecidableEq, Repr

/-- The unspecified sign and mantissa of a NaN result (R92, U6), in the bits of an f24. Assumption 9. -/
opaque nanBits : NanSource → F24 → F24 → F24

/-- The unspecified sign and fraction of the binary32 NaN that widening a NaN gives (R95). -/
opaque nanF32Bits : F24 → Word

/-- The parameter `P_EX2` on finite and zero operands (R5, R114, R115, U18), before the restriction
R115 puts on its class. Assumption 11. -/
opaque ex2Bits : F24 → F24

/-- The parameter `P_LG2` on positive finite operands (R5, R114, R116, U18), before the restriction
R116 puts on its class. Assumption 11. -/
opaque lg2Bits : F24 → F24

/-- `ftoi` of a NaN, an infinity or a magnitude of 2^31 or more (R118, U7). Assumption 10. -/
opaque ftoiUnspecified : F24 → Word

/-- An f24 component with no specified content (U1): `freeF24 n` is the `n`-th one the machine draws,
`n` counted by the field `fresh` of the state. Assumption 8. -/
opaque freeF24 : Nat → F24

/-- The content of a program word nothing has written (R285, U2). Assumption 7. -/
opaque unwrittenProg : UnitId → Nat → Word

/-- The content of an operand descriptor nothing has written (R285, U1). Assumption 7. -/
opaque unwrittenSwz : UnitId → Nat → Word

/-- By how much `P_PROG_WORDS[GS]` exceeds 512 (R5, D13: open, at least 512). Assumption 14. -/
opaque gsProgExtra : Nat

/-- By how much `P_REGFILE_WORDS` exceeds 0x300 (R5, D35: open, at least 0x300). A register id is 16 bits
wide and a number above 0xFFFF is out of range (R240), so the file has at most 0x10000 words. Assumption 14. -/
opaque regfileExtra : Fin 0xFD01

/-- `P_REGFILE_WORDS` (R5). -/
def regfileWords : Nat := 0x300 + regfileExtra.val

/-- What the out-of-scope vertex loader supplies for a draw for which the model's input names nothing: any
list of index-buffer elements and attribute buffers (R257, R258), the attributes as raw patterns, of which
the machine takes the f24 values. Assumption 22. -/
opaque drawSupply : Nat → List (BitVec 16 × Vector Vec4 16)

/-- `P_SWZ_WORDS` (R5, D14). -/
def swzWords : Nat := 128

/-- `P_CALL_STACK_DEPTH` (R5, R20, D15). -/
def callStackDepth : Nat := 16

/-- `P_PROG_WORDS[VS]` (R5, D13). -/
def vsProgWords : Nat := 512

end Sys2Proof.Config
end

