-- ==== Sys2Proof/Machine/Alu.lean ====
section
/-! DEFINITION. The f24 number format and every ALU primitive of 40_f24_alu.md (R90 to R121). They are
functions of their operands alone. Finite results are computed exactly in integers and narrowed once
by `res` (R96), the spec's reference rounding (decision D4, assumption 12). -/

namespace Sys2Proof.Machine

/-! ### The format (R90 to R92) -/

/-- The classes of R91; `m` is the 16-bit mantissa field, `e` the exponent field 1..126. -/
inductive F24Class where
  | zero (s : Bool)
  | fin (s : Bool) (e m : Nat)
  | inf (s : Bool)
  | nan
deriving DecidableEq, Repr

/-- The sign bit `raw[23]` (R90). -/
def signF (a : F24) : Bool := a.getLsbD 23

/-- The exponent field `raw[22:16]` (R90). -/
def expF (a : F24) : Nat := a.toNat / 65536 % 128

/-- The mantissa field `raw[15:0]` (R90). -/
def manF (a : F24) : Nat := a.toNat % 65536

/-- The raw bits of given fields (R90). -/
def packF (s : Bool) (e m : Nat) : F24 := BitVec.ofNat 24 (s.toNat * 8388608 + e * 65536 + m)

/-- Zero(s), canonical (R91, R92). -/
def zeroF (s : Bool) : F24 := packF s 0 0

/-- `F24FromRaw(r)` (R94), the value of a pattern that arrives from the host port: the pattern itself, but
the canonical zero where the exponent is 0. -/
def f24FromRaw (r : F24) : F24 := if expF r = 0 then zeroF (signF r) else r

/-- The class of a pattern, which is the class of its value (R91, R94): a pattern with exponent 0 reads as a zero
whatever the mantissa. Every primitive that is not a bit copy reads its operands through this function, so this is
where a pattern that the host port stored as it is (R251) becomes a value (assumption 13). -/
def classF (a : F24) : F24Class :=
  let v := f24FromRaw a
  if expF v = 0 then .zero (signF v)
  else if expF v = 127 then (if manF v = 0 then .inf (signF v) else .nan)
  else .fin (signF v) (expF v) (manF v)

/-- Inf(s) (R91). -/
def infF (s : Bool) : F24 := packF s 127 0

/-- ONE = +1.0 (R7, R91). -/
def oneF : F24 := 0x3F0000#24

/-- The pattern is a NaN (R91). -/
def isNaNF (a : F24) : Bool := classF a = .nan

/-- A NaN with the sign and, where it is not zero, the mantissa of `bits`. -/
def nanOfBits (bits : F24) : F24 := packF (signF bits) 127 (if manF bits = 0 then 1 else manF bits)

/-- A NaN result (R92): some NaN encoding, which one is unspecified (U6, assumption 9), a function of the values of
the operands (R94, R120). -/
def nanResult (src : Config.NanSource) (a b : F24) : F24 := nanOfBits (Config.nanBits src (f24FromRaw a) (f24FromRaw b))

/-- `val(a)` of a Fin operand in units of 2^-78 (R91): (1 + m/65536) 2^(e-63) = (65536 + m) 2^(e-1) 2^-78. -/
def scaledF (s : Bool) (e m : Nat) : Int :=
  if s then -(((65536 + m) * 2 ^ (e - 1) : Nat) : Int) else (((65536 + m) * 2 ^ (e - 1) : Nat) : Int)

/-! ### Result rounding (R96) -/

/-- floor(log2 (n / d)) for positive `n`, `d`. -/
def floorLog2Ratio (n d : Nat) : Int :=
  let l : Int := (n.log2 : Int) - (d.log2 : Int)
  if n * 2 ^ (-l).toNat < d * 2 ^ l.toNat then l - 1 else l

/-- `Round24(n / d)` for positive `n`, `d` (R96): `(k, q)` with value `k 2^q`, `2^23 ≤ k ≤ 2^24`, ties to
even `k`. -/
def round24 (n d : Nat) : Nat × Int :=
  let q := floorLog2Ratio n d - 23
  let n' := n * 2 ^ (-q).toNat
  let d' := d * 2 ^ q.toNat
  let k := n' / d'
  let r := n' % d'
  (if 2 * r > d' ∨ (2 * r = d' ∧ k % 2 = 1) then k + 1 else k, q)

/-- The narrowing step of R96 for the magnitude `k 2^q`, `k` positive: flush below 2^-62, overflow at
2^64, else truncation to 16 mantissa bits. -/
def narrowF (s : Bool) (k : Nat) (q : Int) : F24 :=
  let e : Int := q + (k.log2 : Int)
  if e < -62 then zeroF s
  else if 64 ≤ e then infF s
  else packF s (e + 63).toNat (k * 65536 / 2 ^ k.log2 - 65536)

/-- `Res(v, sz)` for `v` = ±`n/d` with sign `s` (R96). -/
def res (s : Bool) (n d : Nat) (sz : Bool) : F24 :=
  if n = 0 then zeroF sz else narrowF s (round24 n d).1 (round24 n d).2

/-! ### Conversions (R93 to R95) -/

/-- `F24FromF32(b)` (R93). -/
def f24FromF32 (b : Word) : F24 :=
  let s := b.getLsbD 31
  let e := b.toNat / 8388608 % 256
  let f := b.toNat % 8388608
  if e = 255 then (if f = 0 then infF s else nanOfBits (Config.nanBits .fromF32 (b.setWidth 24) (BitVec.ofNat 24 (b.toNat / 16777216))))
  else if e ≤ 64 then zeroF s
  else if 191 ≤ e then infF s
  else packF s (e - 64) (f / 128)

/-- `F24ToF32(a)` (R95), the exact widening. No instruction uses it. -/
def f24ToF32 (a : F24) : Word :=
  match classF a with
  | .zero s => BitVec.ofNat 32 (s.toNat * 2147483648)
  | .fin s e m => BitVec.ofNat 32 (s.toNat * 2147483648 + (e + 64) * 8388608 + m * 128)
  | .inf s => BitVec.ofNat 32 (s.toNat * 2147483648 + 255 * 8388608)
  | .nan =>
    let p := (Config.nanF32Bits a).toNat
    BitVec.ofNat 32 (p / 2147483648 % 2 * 2147483648 + 255 * 8388608 +
      (if p % 8388608 = 0 then 1 else p % 8388608))

/-- The binary32 pattern of a natural number below 2^24, exact (R216 `binary32(n)`). -/
def f32OfNat (n : Nat) : Word :=
  if n = 0 then 0#32
  else BitVec.ofNat 32 ((127 + n.log2) * 8388608 + (n * 2 ^ (23 - n.log2) - 8388608))

/-! ### Sign, order, add, multiply (R97 to R106) -/

/-- `fneg` (R97): flip the sign bit, whatever the class. -/
def fneg (a : F24) : F24 := a ^^^ 0x800000#24

/-- The place of a value in the order of R98: both zeros equal, infinities outside every finite
value; `none` for a NaN, which is unordered. -/
def orderKey (a : F24) : Option Int :=
  match classF a with
  | .zero _ => some 0
  | .fin s e m => some (scaledF s e m)
  | .inf s => some (if s then -(2 ^ 143 : Int) else (2 ^ 143 : Int))
  | .nan => none

/-- A comparison of R99: `onNaN` for an unordered pair, else `rel` on the order of R98. -/
def compareF (onNaN : Bool) (rel : Int → Int → Bool) (a b : F24) : Bool :=
  match orderKey a, orderKey b with
  | some x, some y => rel x y
  | _, _ => onNaN

/-- `fcmp_eq` (R99). -/
def fcmpEq (a b : F24) : Bool := compareF false (fun x y => decide (x = y)) a b
/-- `fcmp_ne` (R99): true on an unordered pair. -/
def fcmpNe (a b : F24) : Bool := compareF true (fun x y => decide (x ≠ y)) a b
/-- `fcmp_lt` (R99). -/
def fcmpLt (a b : F24) : Bool := compareF false (fun x y => decide (x < y)) a b
/-- `fcmp_le` (R99). -/
def fcmpLe (a b : F24) : Bool := compareF false (fun x y => decide (x ≤ y)) a b
/-- `fcmp_gt` (R99). -/
def fcmpGt (a b : F24) : Bool := compareF false (fun x y => decide (y < x)) a b
/-- `fcmp_ge` (R99). -/
def fcmpGe (a b : F24) : Bool := compareF false (fun x y => decide (y ≤ x)) a b

/-- `fadd` (R100). -/
def fadd (a b : F24) : F24 :=
  match classF a, classF b with
  | .nan, _ => nanResult .add a b
  | _, .nan => nanResult .add a b
  | .inf s, .inf t => if s = t then infF s else nanResult .add a b
  | .inf s, _ => infF s
  | _, .inf s => infF s
  | .zero s, .zero t => zeroF (s && t)
  | .zero _, .fin _ _ _ => b
  | .fin _ _ _, .zero _ => a
  | .fin s e m, .fin t f n =>
    let v := scaledF s e m + scaledF t f n
    res (decide (v < 0)) v.natAbs (2 ^ 78) false

/-- `fmul` (R104), with the 0 x inf sanitization. -/
def fmul (a b : F24) : F24 :=
  match classF a, classF b with
  | .nan, _ => nanResult .mul a b
  | _, .nan => nanResult .mul a b
  | .zero _, .inf _ => zeroF false
  | .inf _, .zero _ => zeroF false
  | .inf s, .inf t => infF (s != t)
  | .inf s, .fin t _ _ => infF (s != t)
  | .fin s _ _, .inf t => infF (s != t)
  | .zero s, .zero t => zeroF (s != t)
  | .zero s, .fin t _ _ => zeroF (s != t)
  | .fin s _ _, .zero t => zeroF (s != t)
  | .fin s e m, .fin t f n =>
    res (s != t) ((scaledF s e m).natAbs * (scaledF t f n).natAbs) (2 ^ 156) (s != t)

/-- `fmad` (R106): not fused. -/
def fmad (a b c : F24) : F24 := fadd (fmul a b) c

/-! ### Maximum, minimum, floor (R107 to R109) -/

/-- `fmax` (R107): a bit copy of one operand, the second unless the first is greater. -/
def fmax (a b : F24) : F24 := if fcmpGt a b then a else b

/-- `fmin` (R108). -/
def fmin (a b : F24) : F24 := if fcmpLt a b then a else b

/-- `ffloor` (R109). -/
def ffloor (a : F24) : F24 :=
  match classF a with
  | .nan => a
  | .inf _ => a
  | .zero s => zeroF s
  | .fin s e m =>
    let v := scaledF s e m / (2 ^ 78 : Int)
    res (decide (v < 0)) v.natAbs 1 false

/-! ### Reciprocal and reciprocal square root (R110 to R113) -/

/-- `P_RCP` of a Fin operand: the reference `Res(1 / val(a), s)` (R111). Assumption 12. -/
def rcpFin (s : Bool) (e m : Nat) : F24 :=
  res s (2 ^ (79 - e)) ((65536 + m) * 2 ^ (e - 79)) s

/-- `frcp` (R111). -/
def frcp (a : F24) : F24 :=
  match classF a with
  | .nan => nanResult .rcp a a
  | .zero s => infF s
  | .inf s => zeroF s
  | .fin s e m => rcpFin s e m

/-- The integer square root, `bits` binary digits of the root found from the top down: `acc` is the root
so far. -/
def isqrtFrom (x : Nat) : Nat → Nat → Nat
  | 0, acc => acc
  | bits + 1, acc =>
    let t := acc + 2 ^ bits
    isqrtFrom x bits (if t * t ≤ x then t else acc)

/-- `Round24(sqrt(val))` for the positive finite value with fields `e`, `m` (R113): `(k, q)` with value
`k 2^q`. The radicand `(65536 + m) 2^(e-79)` is scaled by an even power of two so that its root has 24
bits; a root of an integer is never halfway between two integers, so no tie arises. -/
def sqrt24 (e m : Nat) : Nat × Int :=
  let q : Int := ((e : Int) - 63) / 2 - 23
  let x := (65536 + m) * 2 ^ ((e : Int) - 79 - 2 * q).toNat
  let k := isqrtFrom x 24 0
  (if x > k * k + k then k + 1 else k, q)

/-- `P_RSQ` of a positive Fin operand: the reference `Res(1 / Round24(sqrt(val(a))), 0)` (R113).
Assumption 12. -/
def rsqFin (e m : Nat) : F24 :=
  let kq := sqrt24 e m
  res false (2 ^ (-kq.2).toNat) (kq.1 * 2 ^ kq.2.toNat) false

/-- `frsq` (R113). -/
def frsq (a : F24) : F24 :=
  match classF a with
  | .nan => nanResult .rsq a a
  | .zero s => infF s
  | .inf true => nanResult .rsq a a
  | .inf false => zeroF false
  | .fin true _ _ => nanResult .rsq a a
  | .fin false e m => rsqFin e m

/-! ### Exponential and logarithm (R114 to R116) -/

/-- `P_EX2` (R115) of the operand's value (R94): free, but never NaN and never negative (D7). -/
def pEx2 (a : F24) : F24 :=
  match classF (Config.ex2Bits (f24FromRaw a)) with
  | .fin false _ _ => Config.ex2Bits (f24FromRaw a)
  | .inf false => infF false
  | _ => zeroF false

/-- `fex2` (R115). -/
def fex2 (a : F24) : F24 :=
  match classF a with
  | .nan => nanResult .ex2 a a
  | .inf false => infF false
  | .inf true => zeroF false
  | .zero _ => pEx2 a
  | .fin _ _ _ => pEx2 a

/-- `P_LG2` (R116): free, but neither NaN nor infinite (D7). -/
def pLg2 (a : F24) : F24 :=
  match classF (Config.lg2Bits a) with
  | .fin _ _ _ => Config.lg2Bits a
  | .zero s => zeroF s
  | _ => zeroF false

/-- `flg2` (R116). -/
def flg2 (a : F24) : F24 :=
  match classF a with
  | .nan => nanResult .lg2 a a
  | .zero _ => infF true
  | .fin true _ _ => nanResult .lg2 a a
  | .inf true => nanResult .lg2 a a
  | .inf false => infF false
  | .fin false _ _ => pLg2 a

/-! ### Dot products, float to integer, set on compare (R117 to R119) -/

/-- One term of a dot product (R117). -/
def dotTerm (acc : F24) (p : F24 × F24) : F24 := fadd acc (fmul p.1 p.2)

/-- `fdot(3, a, b)` (R117): left to right from +0. -/
def fdot3 (a b : Vec4) : F24 := [(a.x, b.x), (a.y, b.y), (a.z, b.z)].foldl dotTerm (zeroF false)

/-- `fdot(4, a, b)` (R117). -/
def fdot4 (a b : Vec4) : F24 :=
  [(a.x, b.x), (a.y, b.y), (a.z, b.z), (a.w, b.w)].foldl dotTerm (zeroF false)

/-- The first operand of DPH with its w component replaced by ONE (R141). -/
def homogeneous (a : Vec4) : Vec4 := ⟨a.x, a.y, a.z, oneF⟩

/-- `ftoi` (R118): truncation toward zero to an s32; unspecified where R118 says so (assumption 10). -/
def ftoi (a : F24) : Word :=
  match classF a with
  | .zero _ => 0#32
  | .fin s e m =>
    if e < 94 then BitVec.ofInt 32 (Int.tdiv (scaledF s e m) (2 ^ 78)) else Config.ftoiUnspecified a
  | .inf _ => Config.ftoiUnspecified a
  | .nan => Config.ftoiUnspecified a

/-- `fset` (R119). -/
def fset (p : Bool) : F24 := if p then oneF else zeroF false

/-- The component operation of SGE and SGEI (R147). -/
def fsge (a b : F24) : F24 := fset (fcmpGe a b)

/-- The component operation of SLT and SLTI (R149). -/
def fslt (a b : F24) : F24 := fset (fcmpLt a b)

end Sys2Proof.Machine
end

