-- ==== Sys2Proof/Syntax.lean ====
section
/-! DEFINITION. The instruction set as syntax: one constructor per row of spec/opcode_table.json, its
operands already split out of the word (30_encoding.md R60 to R78). Bits a format ignores (R80) are
not part of the syntax. -/

namespace Sys2Proof

/-- A 5-bit source register (R66): an input or a temporary register. -/
inductive NarrowSrc where
  | v (n : Fin 16)
  | r (n : Fin 16)
deriving DecidableEq, Repr

/-- A 7-bit source register (R66): an input, a temporary or a float uniform `c0`..`c95`. The uniform
number is the 7-bit quantity the address rule R131 adds to; `Instr.wellFormed` bounds it by 96. -/
inductive WideSrc where
  | v (n : Fin 16)
  | r (n : Fin 16)
  | c (n : BitVec 7)
deriving DecidableEq, Repr

/-- A destination register (R67): an output or a temporary register. -/
inductive Dest where
  | o (n : Fin 16)
  | r (n : Fin 16)
deriving DecidableEq, Repr

/-- The address register that offsets the wide source (R68). -/
inductive AddrIdx where
  | none
  | a0x
  | a0y
  | aL
deriving DecidableEq, Repr

/-- A comparison operator of CMP (R69); 6 and 7 are unassigned (R167). -/
inductive CmpOp where
  | eq
  | ne
  | lt
  | le
  | gt
  | ge
  | unassigned6
  | unassigned7
deriving DecidableEq, Repr

/-- The condition operator of format 2 (R73, R173). -/
inductive CondOp where
  | or
  | and
  | justX
  | justY
deriving DecidableEq, Repr

/-- The instructions: the 39 mnemonics and the ten unassigned opcodes of the opcode map (R78). -/
inductive Instr where
  -- format 1 (R61): wide src1
  | add (dest : Dest) (idx : AddrIdx) (src1 : WideSrc) (src2 : NarrowSrc) (desc : BitVec 7)
  | dp3 (dest : Dest) (idx : AddrIdx) (src1 : WideSrc) (src2 : NarrowSrc) (desc : BitVec 7)
  | dp4 (dest : Dest) (idx : AddrIdx) (src1 : WideSrc) (src2 : NarrowSrc) (desc : BitVec 7)
  | dph (dest : Dest) (idx : AddrIdx) (src1 : WideSrc) (src2 : NarrowSrc) (desc : BitVec 7)
  | dst (dest : Dest) (idx : AddrIdx) (src1 : WideSrc) (src2 : NarrowSrc) (desc : BitVec 7)
  -- format 1u (R63): one wide source
  | ex2 (dest : Dest) (idx : AddrIdx) (src1 : WideSrc) (desc : BitVec 7)
  | lg2 (dest : Dest) (idx : AddrIdx) (src1 : WideSrc) (desc : BitVec 7)
  | lit (dest : Dest) (idx : AddrIdx) (src1 : WideSrc) (desc : BitVec 7)
  | mul (dest : Dest) (idx : AddrIdx) (src1 : WideSrc) (src2 : NarrowSrc) (desc : BitVec 7)
  | sge (dest : Dest) (idx : AddrIdx) (src1 : WideSrc) (src2 : NarrowSrc) (desc : BitVec 7)
  | slt (dest : Dest) (idx : AddrIdx) (src1 : WideSrc) (src2 : NarrowSrc) (desc : BitVec 7)
  | flr (dest : Dest) (idx : AddrIdx) (src1 : WideSrc) (desc : BitVec 7)
  | max (dest : Dest) (idx : AddrIdx) (src1 : WideSrc) (src2 : NarrowSrc) (desc : BitVec 7)
  | min (dest : Dest) (idx : AddrIdx) (src1 : WideSrc) (src2 : NarrowSrc) (desc : BitVec 7)
  | rcp (dest : Dest) (idx : AddrIdx) (src1 : WideSrc) (desc : BitVec 7)
  | rsq (dest : Dest) (idx : AddrIdx) (src1 : WideSrc) (desc : BitVec 7)
  | mova (idx : AddrIdx) (src1 : WideSrc) (desc : BitVec 7)
  | mov (dest : Dest) (idx : AddrIdx) (src1 : WideSrc) (desc : BitVec 7)
  -- format 1i (R62): wide src2
  | dphi (dest : Dest) (idx : AddrIdx) (src1 : NarrowSrc) (src2 : WideSrc) (desc : BitVec 7)
  | dsti (dest : Dest) (idx : AddrIdx) (src1 : NarrowSrc) (src2 : WideSrc) (desc : BitVec 7)
  | sgei (dest : Dest) (idx : AddrIdx) (src1 : NarrowSrc) (src2 : WideSrc) (desc : BitVec 7)
  | slti (dest : Dest) (idx : AddrIdx) (src1 : NarrowSrc) (src2 : WideSrc) (desc : BitVec 7)
  -- formats 0, 2, 3, 4 (R73 to R76)
  | brk
  | nop
  | endProg
  | breakc (refx refy : Bool) (cond : CondOp) (target : BitVec 12) (num : BitVec 8)
  | call (target : BitVec 12) (num : BitVec 8)
  | callc (refx refy : Bool) (cond : CondOp) (target : BitVec 12) (num : BitVec 8)
  | callu (boolId : Fin 16) (target : BitVec 12) (num : BitVec 8)
  | ifu (boolId : Fin 16) (target : BitVec 12) (num : BitVec 8)
  | ifc (refx refy : Bool) (cond : CondOp) (target : BitVec 12) (num : BitVec 8)
  | loop (intId : Fin 4) (target : BitVec 12)
  | emit
  | setemit (vertexId : BitVec 2) (primEmit winding : Bool)
  | jmpc (refx refy : Bool) (cond : CondOp) (target : BitVec 12)
  | jmpu (boolId : Fin 16) (target : BitVec 12) (invert : Bool)
  -- format 1c (R64)
  | cmp (cmpx cmpy : CmpOp) (idx : AddrIdx) (src1 : WideSrc) (src2 : NarrowSrc) (desc : BitVec 7)
  -- formats 5i and 5 (R65)
  | madi (dest : Dest) (idx : AddrIdx) (src1 src2 : NarrowSrc) (src3 : WideSrc) (desc : BitVec 5)
  | mad (dest : Dest) (idx : AddrIdx) (src1 : NarrowSrc) (src2 : WideSrc) (src3 : NarrowSrc) (desc : BitVec 5)
  -- the opcodes without an instruction (R79, R186)
  | unassigned10
  | unassigned11
  | unassigned14
  | unassigned15
  | unassigned16
  | unassigned17
  | unassigned1C
  | unassigned1D
  | unassigned1E
  | unassigned1F
deriving DecidableEq, Repr

end Sys2Proof
end

