-- ==== Sys2Proof/WellFormed.lean ====
section
/-! DEFINITION. Two checks on instructions. `Instr.wellFormed`: the operands fit the fields of the
encoding (R61 to R66), what decode and encode agree on. `Instr.portable`: the instruction-level part
of the predicate `WellFormed(program, config)` of 93_implementation_defined.md section 2, the
instructions a claim about silicon should be restricted to; the machine gives a meaning to the others
as well (R79, R131, R167), so nothing in the machine consults it. -/

namespace Sys2Proof

/-- The uniform number of a wide source is one of `c0`..`c95` (R12, R66). -/
def WideSrc.wellFormed : WideSrc → Bool
  | .c n => n < 96#7
  | _ => true

/-- Every operand of the instruction has an encoding. -/
def Instr.wellFormed : Instr → Bool
  | .add _ _ s _ _ | .dp3 _ _ s _ _ | .dp4 _ _ s _ _ | .dph _ _ s _ _ | .dst _ _ s _ _
  | .mul _ _ s _ _ | .sge _ _ s _ _ | .slt _ _ s _ _ | .max _ _ s _ _ | .min _ _ s _ _ => s.wellFormed
  | .ex2 _ _ s _ | .lg2 _ _ s _ | .lit _ _ s _ | .flr _ _ s _ | .rcp _ _ s _ | .rsq _ _ s _
  | .mov _ _ s _ | .mova _ s _ => s.wellFormed
  | .dphi _ _ _ s _ | .dsti _ _ _ s _ | .sgei _ _ _ s _ | .slti _ _ _ s _ => s.wellFormed
  | .cmp _ _ _ s _ _ => s.wellFormed
  | .madi _ _ _ _ s _ => s.wellFormed
  | .mad _ _ _ s _ _ => s.wellFormed
  | .brk | .nop | .endProg | .breakc .. | .call .. | .callc .. | .callu .. | .ifu .. | .ifc ..
  | .loop .. | .emit | .setemit .. | .jmpc .. | .jmpu .. => true
  | .unassigned10 | .unassigned11 | .unassigned14 | .unassigned15 | .unassigned16 | .unassigned17
  | .unassigned1C | .unassigned1D | .unassigned1E | .unassigned1F => true

/-- An address-register index is used only on a float uniform (93_implementation_defined.md U12). -/
def WideSrc.offsetMeaningful (idx : AddrIdx) : WideSrc → Bool
  | .c _ => true
  | _ => idx = .none

/-- The operator is one of the six assigned ones (U8). -/
def CmpOp.assigned : CmpOp → Bool
  | .unassigned6 | .unassigned7 => false
  | _ => true

/-- The instruction is one 93_implementation_defined.md section 2 keeps for unit `u`: no unassigned
opcode (U4), no opcode without semantics in the source (U5), no CMP operator 6 or 7 (U8), no
`vertex_id` 3 (U9), no EMIT or SETEMIT on the vertex shader unit (U11), no offset on a source that is
not a float uniform (U12). -/
def Instr.portable (u : UnitId) : Instr → Bool
  | .add _ i s _ _ | .dp3 _ i s _ _ | .dp4 _ i s _ _ | .dph _ i s _ _
  | .mul _ i s _ _ | .sge _ i s _ _ | .slt _ i s _ _ | .max _ i s _ _ | .min _ i s _ _ => s.offsetMeaningful i
  | .ex2 _ i s _ | .lg2 _ i s _ | .flr _ i s _ | .rcp _ i s _ | .rsq _ i s _
  | .mov _ i s _ | .mova i s _ => s.offsetMeaningful i
  | .dphi _ i _ s _ | .sgei _ i _ s _ | .slti _ i _ s _ => s.offsetMeaningful i
  | .cmp x y i s _ _ => x.assigned && y.assigned && s.offsetMeaningful i
  | .madi _ i _ _ s _ => s.offsetMeaningful i
  | .mad _ i _ s _ _ => s.offsetMeaningful i
  | .nop | .endProg | .call .. | .callc .. | .callu .. | .ifu .. | .ifc ..
  | .loop .. | .jmpc .. | .jmpu .. => true
  | .emit => u = .gs
  | .setemit n _ _ => u = .gs && n != 3#2
  | .dst .. | .dsti .. | .lit .. | .brk | .breakc .. => false
  | .unassigned10 | .unassigned11 | .unassigned14 | .unassigned15 | .unassigned16 | .unassigned17
  | .unassigned1C | .unassigned1D | .unassigned1E | .unassigned1F => false

end Sys2Proof
end

