-- ==== Sys2Proof/Decode.lean ====
section
/-! DEFINITION. The decoder (total on every word and on every string of bytes) and, after it, the
encoder, both written from 30_encoding.md R60 to R78; and the byte order in which a word reaches the
block (20_memory.md R42). -/

namespace Sys2Proof

/-! ### Bit fields and byte order -/

/-- Bits `lo+n-1 : lo` of a word (R6). -/
def field (w : Word) (lo n : Nat) : BitVec n := w.extractLsb' lo n

/-- Bit `i` of a word as a flag. -/
def flagAt (w : Word) (i : Nat) : Bool := w.getLsbD i

/-- The four bytes of a word in the order the block stores them in guest memory, least significant
byte first (R42). -/
def wordBytes (w : Word) : List Byte := [field w 0 8, field w 8 8, field w 16 8, field w 24 8]

/-- The word that four bytes make, the first byte least significant (R42). -/
def wordOfBytes (b0 b1 b2 b3 : Byte) : Word := b3 ++ b2 ++ b1 ++ b0

/-! ### Operand fields -/

/-- A 5-bit destination field (R67): 0x00..0x0F an output, 0x10..0x1F a temporary register. -/
def destOf (b : BitVec 5) : Dest :=
  if b.toNat < 16 then .o (Fin.ofNat 16 b.toNat) else .r (Fin.ofNat 16 (b.toNat - 16))

/-- A 5-bit source field (R66). -/
def narrowOf (b : BitVec 5) : NarrowSrc :=
  if b.toNat < 16 then .v (Fin.ofNat 16 b.toNat) else .r (Fin.ofNat 16 (b.toNat - 16))

/-- A 7-bit source field (R66): 0x20..0x7F is the float uniform with that number less 0x20. -/
def wideOf (b : BitVec 7) : WideSrc :=
  if b.toNat < 16 then .v (Fin.ofNat 16 b.toNat)
  else if b.toNat < 32 then .r (Fin.ofNat 16 (b.toNat - 16))
  else .c (b - 32#7)

/-- The address register index (R68). -/
def idxOf (b : BitVec 2) : AddrIdx :=
  if b = 0#2 then .none else if b = 1#2 then .a0x else if b = 2#2 then .a0y else .aL

/-- A comparison operator (R69). -/
def cmpOf (b : BitVec 3) : CmpOp :=
  if b = 0#3 then .eq else if b = 1#3 then .ne else if b = 2#3 then .lt else if b = 3#3 then .le
  else if b = 4#3 then .gt else if b = 5#3 then .ge else if b = 6#3 then .unassigned6
  else .unassigned7

/-- A condition operator (R73). -/
def condOf (b : BitVec 2) : CondOp :=
  if b = 0#2 then .or else if b = 1#2 then .and else if b = 2#2 then .justX else .justY

/-- The number of a boolean uniform (R74). -/
def boolIdOf (b : BitVec 4) : Fin 16 := Fin.ofNat 16 b.toNat

/-- The number of an integer uniform (R74). -/
def intIdOf (b : BitVec 2) : Fin 4 := Fin.ofNat 4 b.toNat

/-! ### The decoder -/

/-- The instruction a word is: the opcode map of R78 with the formats of R61 to R65 and R73 to R76.
Every word decodes; the ten opcodes without an instruction (R186) have constructors of their own. -/
def decodeWord (w : Word) : Instr :=
  let op := field w 26 6
  if op = 0x00#6 then .add (destOf (field w 21 5)) (idxOf (field w 19 2)) (wideOf (field w 12 7)) (narrowOf (field w 7 5)) (field w 0 7) else
  if op = 0x01#6 then .dp3 (destOf (field w 21 5)) (idxOf (field w 19 2)) (wideOf (field w 12 7)) (narrowOf (field w 7 5)) (field w 0 7) else
  if op = 0x02#6 then .dp4 (destOf (field w 21 5)) (idxOf (field w 19 2)) (wideOf (field w 12 7)) (narrowOf (field w 7 5)) (field w 0 7) else
  if op = 0x03#6 then .dph (destOf (field w 21 5)) (idxOf (field w 19 2)) (wideOf (field w 12 7)) (narrowOf (field w 7 5)) (field w 0 7) else
  if op = 0x04#6 then .dst (destOf (field w 21 5)) (idxOf (field w 19 2)) (wideOf (field w 12 7)) (narrowOf (field w 7 5)) (field w 0 7) else
  if op = 0x05#6 then .ex2 (destOf (field w 21 5)) (idxOf (field w 19 2)) (wideOf (field w 12 7)) (field w 0 7) else
  if op = 0x06#6 then .lg2 (destOf (field w 21 5)) (idxOf (field w 19 2)) (wideOf (field w 12 7)) (field w 0 7) else
  if op = 0x07#6 then .lit (destOf (field w 21 5)) (idxOf (field w 19 2)) (wideOf (field w 12 7)) (field w 0 7) else
  if op = 0x08#6 then .mul (destOf (field w 21 5)) (idxOf (field w 19 2)) (wideOf (field w 12 7)) (narrowOf (field w 7 5)) (field w 0 7) else
  if op = 0x09#6 then .sge (destOf (field w 21 5)) (idxOf (field w 19 2)) (wideOf (field w 12 7)) (narrowOf (field w 7 5)) (field w 0 7) else
  if op = 0x0A#6 then .slt (destOf (field w 21 5)) (idxOf (field w 19 2)) (wideOf (field w 12 7)) (narrowOf (field w 7 5)) (field w 0 7) else
  if op = 0x0B#6 then .flr (destOf (field w 21 5)) (idxOf (field w 19 2)) (wideOf (field w 12 7)) (field w 0 7) else
  if op = 0x0C#6 then .max (destOf (field w 21 5)) (idxOf (field w 19 2)) (wideOf (field w 12 7)) (narrowOf (field w 7 5)) (field w 0 7) else
  if op = 0x0D#6 then .min (destOf (field w 21 5)) (idxOf (field w 19 2)) (wideOf (field w 12 7)) (narrowOf (field w 7 5)) (field w 0 7) else
  if op = 0x0E#6 then .rcp (destOf (field w 21 5)) (idxOf (field w 19 2)) (wideOf (field w 12 7)) (field w 0 7) else
  if op = 0x0F#6 then .rsq (destOf (field w 21 5)) (idxOf (field w 19 2)) (wideOf (field w 12 7)) (field w 0 7) else
  if op = 0x10#6 then .unassigned10 else
  if op = 0x11#6 then .unassigned11 else
  if op = 0x12#6 then .mova (idxOf (field w 19 2)) (wideOf (field w 12 7)) (field w 0 7) else
  if op = 0x13#6 then .mov (destOf (field w 21 5)) (idxOf (field w 19 2)) (wideOf (field w 12 7)) (field w 0 7) else
  if op = 0x14#6 then .unassigned14 else
  if op = 0x15#6 then .unassigned15 else
  if op = 0x16#6 then .unassigned16 else
  if op = 0x17#6 then .unassigned17 else
  if op = 0x18#6 then .dphi (destOf (field w 21 5)) (idxOf (field w 19 2)) (narrowOf (field w 14 5)) (wideOf (field w 7 7)) (field w 0 7) else
  if op = 0x19#6 then .dsti (destOf (field w 21 5)) (idxOf (field w 19 2)) (narrowOf (field w 14 5)) (wideOf (field w 7 7)) (field w 0 7) else
  if op = 0x1A#6 then .sgei (destOf (field w 21 5)) (idxOf (field w 19 2)) (narrowOf (field w 14 5)) (wideOf (field w 7 7)) (field w 0 7) else
  if op = 0x1B#6 then .slti (destOf (field w 21 5)) (idxOf (field w 19 2)) (narrowOf (field w 14 5)) (wideOf (field w 7 7)) (field w 0 7) else
  if op = 0x1C#6 then .unassigned1C else
  if op = 0x1D#6 then .unassigned1D else
  if op = 0x1E#6 then .unassigned1E else
  if op = 0x1F#6 then .unassigned1F else
  if op = 0x20#6 then .brk else
  if op = 0x21#6 then .nop else
  if op = 0x22#6 then .endProg else
  if op = 0x23#6 then .breakc (flagAt w 25) (flagAt w 24) (condOf (field w 22 2)) (field w 10 12) (field w 0 8) else
  if op = 0x24#6 then .call (field w 10 12) (field w 0 8) else
  if op = 0x25#6 then .callc (flagAt w 25) (flagAt w 24) (condOf (field w 22 2)) (field w 10 12) (field w 0 8) else
  if op = 0x26#6 then .callu (boolIdOf (field w 22 4)) (field w 10 12) (field w 0 8) else
  if op = 0x27#6 then .ifu (boolIdOf (field w 22 4)) (field w 10 12) (field w 0 8) else
  if op = 0x28#6 then .ifc (flagAt w 25) (flagAt w 24) (condOf (field w 22 2)) (field w 10 12) (field w 0 8) else
  if op = 0x29#6 then .loop (intIdOf (field w 22 2)) (field w 10 12) else
  if op = 0x2A#6 then .emit else
  if op = 0x2B#6 then .setemit (field w 24 2) (flagAt w 23) (flagAt w 22) else
  if op = 0x2C#6 then .jmpc (flagAt w 25) (flagAt w 24) (condOf (field w 22 2)) (field w 10 12) else
  if op = 0x2D#6 then .jmpu (boolIdOf (field w 22 4)) (field w 10 12) (flagAt w 0) else
  if field w 27 5 = 0x17#5 then
    .cmp (cmpOf (field w 24 3)) (cmpOf (field w 21 3)) (idxOf (field w 19 2)) (wideOf (field w 12 7)) (narrowOf (field w 7 5)) (field w 0 7) else
  if field w 29 3 = 0b110#3 then
    .madi (destOf (field w 24 5)) (idxOf (field w 22 2)) (narrowOf (field w 17 5)) (narrowOf (field w 12 5)) (wideOf (field w 5 7)) (field w 0 5) else
    .mad (destOf (field w 24 5)) (idxOf (field w 22 2)) (narrowOf (field w 17 5)) (wideOf (field w 10 7)) (narrowOf (field w 5 5)) (field w 0 5)

/-- Why a string of bytes is not an instruction: every whole word is one (R60, R79), so the one
reason is that fewer than four bytes are left. -/
inductive DecodeError where
  /-- Fewer than four bytes. Raised by `decode` alone; safe. -/
  | truncated
deriving DecidableEq, Repr

/-- Read one instruction from bytes in guest-memory order (R42, R60), with the bytes that follow. -/
def decode : List Byte → Except DecodeError (Instr × List Byte)
  | b0 :: b1 :: b2 :: b3 :: rest => .ok (decodeWord (wordOfBytes b0 b1 b2 b3), rest)
  | _ => .error .truncated

/-- The instruction the decoder reads from an instruction whose bits are `w`, `nbits` of them given
and the rest 0. -/
def decodeTableWord (nbits w : Nat) : Option Instr :=
  match decode (wordBytes (BitVec.ofNat 32 (w % 2 ^ nbits))) with
  | .ok (i, _) => some i
  | .error _ => none

/-! ### The encoder -/

/-- The destination field of R67. -/
def destBits : Dest → Nat
  | .o n => n.val
  | .r n => 16 + n.val

/-- The 5-bit source field of R66. -/
def narrowBits : NarrowSrc → Nat
  | .v n => n.val
  | .r n => 16 + n.val

/-- The 7-bit source field of R66. -/
def wideBits : WideSrc → Nat
  | .v n => n.val
  | .r n => 16 + n.val
  | .c n => 32 + n.toNat

/-- The address register index of R68. -/
def idxBits : AddrIdx → Nat
  | .none => 0
  | .a0x => 1
  | .a0y => 2
  | .aL => 3

/-- The operator numbers of R69. -/
def cmpBits : CmpOp → Nat
  | .eq => 0
  | .ne => 1
  | .lt => 2
  | .le => 3
  | .gt => 4
  | .ge => 5
  | .unassigned6 => 6
  | .unassigned7 => 7

/-- The condition numbers of R73. -/
def condBits : CondOp → Nat
  | .or => 0
  | .and => 1
  | .justX => 2
  | .justY => 3

/-- Formats 1 and 1u (R61, R63); ignored fields are 0. -/
def packFormat1 (op d i s1 s2 k : Nat) : Word :=
  BitVec.ofNat 32 (op * 2 ^ 26 + d * 2 ^ 21 + i * 2 ^ 19 + s1 * 2 ^ 12 + s2 * 2 ^ 7 + k)

/-- Format 1i (R62). -/
def packFormat1i (op d i s1 s2 k : Nat) : Word :=
  BitVec.ofNat 32 (op * 2 ^ 26 + d * 2 ^ 21 + i * 2 ^ 19 + s1 * 2 ^ 14 + s2 * 2 ^ 7 + k)

/-- Format 2 (R73). -/
def packFormat2 (op : Nat) (x y : Bool) (c t n : Nat) : Word :=
  BitVec.ofNat 32 (op * 2 ^ 26 + x.toNat * 2 ^ 25 + y.toNat * 2 ^ 24 + c * 2 ^ 22 + t * 2 ^ 10 + n)

/-- Format 3 (R74): `u` is the 4-bit boolean number, or the integer number in bits 23:22. -/
def packFormat3 (op u t n : Nat) : Word :=
  BitVec.ofNat 32 (op * 2 ^ 26 + u * 2 ^ 22 + t * 2 ^ 10 + n)

/-- Format 0 (R76) and the unassigned opcodes: the opcode alone. -/
def packOpcode (op : Nat) : Word := BitVec.ofNat 32 (op * 2 ^ 26)

/-- The word of a well-formed instruction, ignored bits 0 (R80). -/
def encodeWord : Instr → Word
  | .add d i s1 s2 k => packFormat1 0x00 (destBits d) (idxBits i) (wideBits s1) (narrowBits s2) k.toNat
  | .dp3 d i s1 s2 k => packFormat1 0x01 (destBits d) (idxBits i) (wideBits s1) (narrowBits s2) k.toNat
  | .dp4 d i s1 s2 k => packFormat1 0x02 (destBits d) (idxBits i) (wideBits s1) (narrowBits s2) k.toNat
  | .dph d i s1 s2 k => packFormat1 0x03 (destBits d) (idxBits i) (wideBits s1) (narrowBits s2) k.toNat
  | .dst d i s1 s2 k => packFormat1 0x04 (destBits d) (idxBits i) (wideBits s1) (narrowBits s2) k.toNat
  | .mul d i s1 s2 k => packFormat1 0x08 (destBits d) (idxBits i) (wideBits s1) (narrowBits s2) k.toNat
  | .sge d i s1 s2 k => packFormat1 0x09 (destBits d) (idxBits i) (wideBits s1) (narrowBits s2) k.toNat
  | .slt d i s1 s2 k => packFormat1 0x0A (destBits d) (idxBits i) (wideBits s1) (narrowBits s2) k.toNat
  | .max d i s1 s2 k => packFormat1 0x0C (destBits d) (idxBits i) (wideBits s1) (narrowBits s2) k.toNat
  | .min d i s1 s2 k => packFormat1 0x0D (destBits d) (idxBits i) (wideBits s1) (narrowBits s2) k.toNat
  | .ex2 d i s1 k => packFormat1 0x05 (destBits d) (idxBits i) (wideBits s1) 0 k.toNat
  | .lg2 d i s1 k => packFormat1 0x06 (destBits d) (idxBits i) (wideBits s1) 0 k.toNat
  | .lit d i s1 k => packFormat1 0x07 (destBits d) (idxBits i) (wideBits s1) 0 k.toNat
  | .flr d i s1 k => packFormat1 0x0B (destBits d) (idxBits i) (wideBits s1) 0 k.toNat
  | .rcp d i s1 k => packFormat1 0x0E (destBits d) (idxBits i) (wideBits s1) 0 k.toNat
  | .rsq d i s1 k => packFormat1 0x0F (destBits d) (idxBits i) (wideBits s1) 0 k.toNat
  | .mov d i s1 k => packFormat1 0x13 (destBits d) (idxBits i) (wideBits s1) 0 k.toNat
  | .mova i s1 k => packFormat1 0x12 0 (idxBits i) (wideBits s1) 0 k.toNat
  | .dphi d i s1 s2 k => packFormat1i 0x18 (destBits d) (idxBits i) (narrowBits s1) (wideBits s2) k.toNat
  | .dsti d i s1 s2 k => packFormat1i 0x19 (destBits d) (idxBits i) (narrowBits s1) (wideBits s2) k.toNat
  | .sgei d i s1 s2 k => packFormat1i 0x1A (destBits d) (idxBits i) (narrowBits s1) (wideBits s2) k.toNat
  | .slti d i s1 s2 k => packFormat1i 0x1B (destBits d) (idxBits i) (narrowBits s1) (wideBits s2) k.toNat
  | .brk => packOpcode 0x20
  | .nop => packOpcode 0x21
  | .endProg => packOpcode 0x22
  | .emit => packOpcode 0x2A
  | .breakc x y c t n => packFormat2 0x23 x y (condBits c) t.toNat n.toNat
  | .call t n => packFormat2 0x24 false false 0 t.toNat n.toNat
  | .callc x y c t n => packFormat2 0x25 x y (condBits c) t.toNat n.toNat
  | .callu b t n => packFormat3 0x26 b.val t.toNat n.toNat
  | .ifu b t n => packFormat3 0x27 b.val t.toNat n.toNat
  | .ifc x y c t n => packFormat2 0x28 x y (condBits c) t.toNat n.toNat
  | .loop n t => packFormat3 0x29 n.val t.toNat 0
  | .setemit v p x => BitVec.ofNat 32 (0x2B * 2 ^ 26 + v.toNat * 2 ^ 24 + p.toNat * 2 ^ 23 + x.toNat * 2 ^ 22)
  | .jmpc x y c t => packFormat2 0x2C x y (condBits c) t.toNat 0
  | .jmpu b t inv => packFormat3 0x2D b.val t.toNat inv.toNat
  | .cmp x y i s1 s2 k => BitVec.ofNat 32 (0x17 * 2 ^ 27 + cmpBits x * 2 ^ 24 + cmpBits y * 2 ^ 21 + idxBits i * 2 ^ 19 + wideBits s1 * 2 ^ 12 + narrowBits s2 * 2 ^ 7 + k.toNat)
  | .madi d i s1 s2 s3 k => BitVec.ofNat 32 (0b110 * 2 ^ 29 + destBits d * 2 ^ 24 + idxBits i * 2 ^ 22 + narrowBits s1 * 2 ^ 17 + narrowBits s2 * 2 ^ 12 + wideBits s3 * 2 ^ 5 + k.toNat)
  | .mad d i s1 s2 s3 k => BitVec.ofNat 32 (0b111 * 2 ^ 29 + destBits d * 2 ^ 24 + idxBits i * 2 ^ 22 + narrowBits s1 * 2 ^ 17 + wideBits s2 * 2 ^ 10 + narrowBits s3 * 2 ^ 5 + k.toNat)
  | .unassigned10 => packOpcode 0x10
  | .unassigned11 => packOpcode 0x11
  | .unassigned14 => packOpcode 0x14
  | .unassigned15 => packOpcode 0x15
  | .unassigned16 => packOpcode 0x16
  | .unassigned17 => packOpcode 0x17
  | .unassigned1C => packOpcode 0x1C
  | .unassigned1D => packOpcode 0x1D
  | .unassigned1E => packOpcode 0x1E
  | .unassigned1F => packOpcode 0x1F

/-- The words of an instruction (R60: one). -/
def encode (i : Instr) : List Word := [encodeWord i]

end Sys2Proof
end

