-- ==== Sys2Proof/Machine/HostRegs.lean ====
section
/-! DEFINITION. The numbers of the special host registers and what the reset contents of the register
file are. The spec names the registers by function (46_host_port.md R247) and gives the numbers as an
informative map (R262) that a model may take; this model takes it (assumption 1). -/

namespace Sys2Proof.Machine

/-- The first register number of a unit's block (R262). -/
def regBase : UnitId → Nat
  | .gs => 0x280
  | .vs => 0x2B0

def regIrq : Nat := 0x010
def regGsUse : Nat := 0x229
def regDraw : Nat := 0x22E
def regDrawIndexed : Nat := 0x22F
def regDefattrIndex : Nat := 0x232
def regDefattrData : Nat := 0x233
/-- `REG_SUBLIST_SIZE[n]`. -/
def regSublistSize (n : Fin 2) : Nat := 0x238 + n.val
/-- `REG_SUBLIST_ADDR[n]`. -/
def regSublistAddr (n : Fin 2) : Nat := 0x23A + n.val
/-- `REG_SUBLIST_TRIGGER[n]`. -/
def regSublistTrigger (n : Fin 2) : Nat := 0x23C + n.val
def regGsShared : Nat := 0x244
/-- `REG_VS_OUT_NUM`, the first of its two copies (assumption 23). -/
def regVsOutNum : Nat := 0x24A
def regGsConfig : Nat := 0x252
def regGsMainNum : Nat := 0x254
def regTopology : Nat := 0x25E
def regRestart : Nat := 0x25F
def regBuni (u : UnitId) : Nat := regBase u
/-- `REG_IUNI[U][n]`. -/
def regIuni (u : UnitId) (n : Fin 4) : Nat := regBase u + 0x01 + n.val
/-- `REG_IN_NUM[U]`, the unit's own copy (assumption 23). -/
def regInNum (u : UnitId) : Nat := regBase u + 0x09
def regEntry (u : UnitId) : Nat := regBase u + 0x0A
/-- `REG_IN_MAP[U][0]`; the second word is the next number. -/
def regInMap (u : UnitId) : Nat := regBase u + 0x0B
def regOutMask (u : UnitId) : Nat := regBase u + 0x0D
def regFuniSetup (u : UnitId) : Nat := regBase u + 0x10
/-- The first of the eight `REG_FUNI_DATA[U]`. -/
def regFuniData (u : UnitId) : Nat := regBase u + 0x11
def regProgOffset (u : UnitId) : Nat := regBase u + 0x1B
/-- The first of the eight `REG_PROG_DATA[U]`. -/
def regProgData (u : UnitId) : Nat := regBase u + 0x1C
def regSwzOffset (u : UnitId) : Nat := regBase u + 0x25
/-- The first of the eight `REG_SWZ_DATA[U]`. -/
def regSwzData (u : UnitId) : Nat := regBase u + 0x26

/-- What a register write does beyond storing (R247). -/
inductive HostReg where
  | plain
  | progData (u : UnitId)
  | swzData (u : UnitId)
  | funiData (u : UnitId)
  | intUniform (u : UnitId) (n : Fin 4)
  | boolUniform (u : UnitId)
  | topology
  | restart
  | draw
  | drawIndexed
  | defattrIndex
  | defattrData
  | irq
  | sublistTrigger (n : Fin 2)
deriving DecidableEq, Repr

/-- The special register of a unit's block at a given place in it (R262). -/
def unitReg (u : UnitId) (k : Nat) : HostReg :=
  if k = 0 then .boolUniform u
  else if k ≤ 4 then .intUniform u (Fin.ofNat 4 (k - 1))
  else if 0x11 ≤ k ∧ k ≤ 0x18 then .funiData u
  else if 0x1C ≤ k ∧ k ≤ 0x23 then .progData u
  else if 0x26 ≤ k ∧ k ≤ 0x2D then .swzData u
  else .plain

/-- Which special register a number is (R247, R262); every other number is plain storage. -/
def hostReg (id : Nat) : HostReg :=
  if 0x280 ≤ id ∧ id < 0x2B0 then unitReg .gs (id - 0x280)
  else if 0x2B0 ≤ id ∧ id < 0x2E0 then unitReg .vs (id - 0x2B0)
  else if id = regIrq then .irq
  else if id = regDraw then .draw
  else if id = regDrawIndexed then .drawIndexed
  else if id = regDefattrIndex then .defattrIndex
  else if 0x233 ≤ id ∧ id ≤ 0x235 then .defattrData
  else if id = 0x23C then .sublistTrigger 0
  else if id = 0x23D then .sublistTrigger 1
  else if id = regTopology then .topology
  else if id = regRestart then .restart
  else .plain

/-- The reset contents of the register file (R285): the input maps are the identity, `USE_GS` is No and
`GS_SHARED` is true, which the value 0 of their words says; every other word, for which the spec gives
no value, is 0 (assumption 5). -/
def hregReset (id : Nat) : Word :=
  if id = regInMap .gs ∨ id = regInMap .vs then 0x76543210#32
  else if id = regInMap .gs + 1 ∨ id = regInMap .vs + 1 then 0xFEDCBA98#32
  else 0#32

/-- A register number is inside the register file (R244), whose size is open between 0x300 and 0x10000
(assumption 14); the first test decides the numbers that are inside whatever the size is. -/
def regInRange (id : Nat) : Bool := decide (id < 0x300) || decide (id < Config.regfileWords)

end Sys2Proof.Machine
end

