-- ==== Sys2Proof/Machine/State.lean ====
section
/-! DEFINITION. The state of the block (10_state.md, 45_geometry_pipeline.md, 46_host_port.md), all of
it plain data, its reset value (70_reset_and_hazards.md R285), and the reasons a step can stop.

Uniforms `I`, `B`, the entry point and every configuration field of R27 have no field of their own: the
spec says that the stored host register IS the value (R252, R253, R254, R256), so they are read out of
`hreg` by the accessors of Machine/Ops.lean. -/

namespace Sys2Proof.Machine

/-- Guest memory: a list of (byte address, byte), addresses strictly rising. An address not listed is
not mapped (R47, U10). -/
abbrev Memory := List Host.Cell

/-- A store of 32-bit words by number: program memory, descriptor table, host registers. -/
abbrev WordStore := List (Nat × Word)

/-- `RUN[U]` (R21). -/
inductive RunState where
  | idle
  | running
  | halted
deriving DecidableEq, Repr

/-- A call-stack frame (R20). Addresses are natural numbers (R17). -/
structure Frame where
  endAddr : Nat
  retAddr : Nat
  count : BitVec 8
  inc : BitVec 8
  loopStart : Nat
  restoreAL : Bool
  savedAL : Word
  isLoop : Bool
deriving DecidableEq, Repr

/-- One shader unit: its program state (R10 to R12), its invocation state (R16 to R21) and the host
port's float-uniform assembly buffer for it (R251). A register is a 24-bit encoding, bit for bit as it was
written; a raw load of the host port may leave a zero with a mantissa in it (R251, assumption 13). -/
structure ShaderUnit where
  prog : WordStore
  swz : WordStore
  c : Vector Vec4 96
  v : Vector Vec4 16
  o : Vector Vec4 16
  r : Vector Vec4 16
  pc : Nat
  a0x : Word
  a0y : Word
  al : Word
  ccx : Bool
  ccy : Bool
  stk : List Frame
  run : RunState
  fuBuf : Vector Word 4
  fuN : Nat
deriving DecidableEq, Repr

/-- The geometry emitter (R23). -/
structure Emitter where
  vertexId : BitVec 2
  primEmit : Bool
  winding : Bool
  buf : Vector (Vector Vec4 16) 3
deriving DecidableEq, Repr

/-- The counters of VariablePrimitive mode while a primitive is being filled (R25, R216). -/
structure PrimCount where
  mainLeft : Nat
  totalLeft : Nat
  varCur : Nat
deriving DecidableEq, Repr

/-- The geometry pipeline's backend (R24, R25): only the fields of the current mode exist.
`GP.need_index` is true exactly when `VariablePrimitive` holds no counters (R210, R216, R217). -/
inductive Backend where
  | passthrough
  | point (vsOut inNum : Nat) (buf : Vector Vec4 16) (cur : Nat)
  | variablePrim (vsOut : Nat) (left : Option PrimCount)
  | fixedPrim (vsOut first last cur : Nat)
deriving DecidableEq, Repr

/-- A shaded vertex: the packed output attributes, 0 to 16 of them (R208, R225). -/
abbrev Vertex := List Vec4

/-- An entry of the vertex-output FIFO (R26, R225). -/
inductive VoutEntry where
  | vertex (a : Vertex)
  | windingMarker
deriving DecidableEq, Repr

/-- A triangle of the output stream (R235). -/
structure Triangle where
  v0 : Vertex
  v1 : Vertex
  v2 : Vertex
deriving DecidableEq, Repr

/-- The primitive assembler (R28). -/
structure Assembler where
  buf0 : Vertex
  buf1 : Vertex
  idx : Nat
  stripReady : Bool
  winding : Bool
deriving DecidableEq, Repr

/-- The streams of R248 that have a range. -/
inductive StreamKind where
  | prog
  | swz
deriving DecidableEq, Repr

/-- The anomalies of R270, in its order. -/
inductive Anomaly where
  | unknownOpcode (pc : Nat) (opcode : Nat)
  | unimplementedOpcode (pc : Nat) (opcode : Nat)
  | badCompareOp (pc : Nat) (op : Nat)
  | unknownTopology (value : Nat)
  | badRegisterId (id : Nat)
  | badStreamOffset (u : UnitId) (stream : StreamKind) (off : Nat)
  | badUniformIndex (u : UnitId) (index : Nat)
  | badDefaultAttrIndex (index : Nat)
deriving DecidableEq, Repr

/-- The interrupts the block signals (R261). -/
inductive InterruptId where
  | p3d
deriving DecidableEq, Repr

/-- The extra words of a logical write still to come (R240): `id` is the header's id, `next` the
number `i + 1` the next extra word adds to it when `group` is set, `left` how many are left (at least 1). -/
structure Burst where
  id : Nat
  mask : BitVec 4
  group : Bool
  next : Nat
  left : Nat
deriving DecidableEq, Repr

/-- The walk of a command list (R240): `CL.head`, `CL.len`, `CL.cur`, and the logical write under way. `head` is a
guest byte address, which the spec gives no width: a natural number here (DESIGN CHOICE, assumption 39). -/
structure CmdWalk where
  head : Nat
  len : Nat
  cur : Nat
  burst : Option Burst
deriving DecidableEq, Repr

/-- What the out-of-scope vertex loader supplies for one `k` of a draw (R257, R258): the element of the
index buffer and the attribute buffer of the vertex, as f24 patterns. -/
structure LoaderVertex where
  index : BitVec 16
  attrs : Vector Vec4 16
deriving DecidableEq, Repr

/-- The draw in progress (R257): the vertices still to come, in ascending `k`. -/
structure DrawWalk where
  indexed : Bool
  items : List LoaderVertex
deriving DecidableEq, Repr

/-- The state of the block. -/
structure State where
  /-- The vertex shader unit (R2). -/
  vs : ShaderUnit
  /-- The geometry shader unit (R2). -/
  gs : ShaderUnit
  /-- The geometry emitter `EM` of the GS unit (R23). -/
  em : Emitter
  /-- The geometry pipeline `GP` (R24, R25). -/
  gp : Backend
  /-- The vertex-output FIFO `VOUT` (R26), first entry first. -/
  vout : List VoutEntry
  /-- The primitive assembler `PA` (R28). -/
  pa : Assembler
  /-- The output stream `TRI` (R235), first triangle first. -/
  tri : List Triangle
  /-- The interrupts signalled so far (R261). -/
  irq : List InterruptId
  /-- The host register file `HREG` (R29), as a canonical store over its reset contents. -/
  hreg : WordStore
  /-- Guest memory (R40, R47): the bytes that are mapped, none right after reset (assumption 38). -/
  guest : Memory
  /-- The command list in progress `CL` (R240). -/
  cl : Option CmdWalk
  /-- The draw in progress (R257). -/
  draw : Option DrawWalk
  /-- The default-attribute assembly buffer and its word count (R260, R285). -/
  daBuf : Vector Word 3
  daN : Nat
  /-- The default attributes handed to the vertex loader (R260). -/
  defaultAttrs : Vector Vec4 12
  /-- Immediate mode: `IMM.A`, `IMM.n` (R260). -/
  immBuf : Vector Vec4 16
  immN : Nat
  /-- No immediate-mode vertex has been completed since 0xF was written to `REG_DEFATTR_INDEX` (R260). -/
  immFirst : Bool
  /-- The anomaly record `LOG` (R270). -/
  log : List Anomaly
  /-- The model's own: calls `ProcessCmdList(address, size)` the host has yet to have served (R293). -/
  hostCalls : List (Nat × Nat)
  /-- The model's own: what the vertex loader will supply, one list for each draw to come (R257); a draw
  beyond them takes a free supply (assumption 22). -/
  loader : List (List LoaderVertex)
  /-- The model's own: how many free components have been drawn (assumption 8). -/
  fresh : Nat
deriving DecidableEq, Repr

/-- A machine fault: the machine has no successor state. -/
inductive Fault where
  /-- A fetch at or beyond the end of program memory (R44, U2: `stuck`). Raised by `step`. Safe. -/
  | fetchOutOfRange (u : UnitId) (pc : Nat)
  /-- A push onto a call stack of 16 frames (R172, U3: `stuck`). Raised by CALL, CALLC, CALLU, IFU, IFC
  and LOOP. Safe. -/
  | callStackOverflow
deriving DecidableEq, Repr

/-- An input the spec's own treatment refuses: it gives it no behaviour. -/
inductive Refusal where
  /-- An instruction without a meaning. Raised by `exec` alone. Safe. -/
  | notModelled (mnemonic : String)
  /-- EMIT or SETEMIT on the vertex shader unit, which has no emitter (R196, R200, U11). Safe. -/
  | emitterAbsent
  /-- EMIT with `EM.vertex_id` = 3 (R200, U9). Safe. -/
  | emitSlotOutOfRange
  /-- A geometry configuration the spec leaves unspecified (R210, R212, R220, R254, U16). Raised by
  Reconfigure. Safe. -/
  | geometryConfig
  /-- Reconfigure while the geometry pipeline holds buffered data (R210, R254, U16). Safe. -/
  | pipelineNotEmpty
  /-- A geometry-pipeline write to a float uniform above c95 (R217, U16). Safe. -/
  | uniformSlotOutOfRange
  /-- An index where none is needed, none where one is, or a count of 0 (R214, R216, R257, R260, U17).
  Safe. -/
  | indexProtocol
  /-- A read of guest memory outside what is mapped (R47, U10). Safe. -/
  | guestUnmapped (address : Nat)
  /-- A command list whose address or size is not a multiple of 8 (R243, U13). Safe. -/
  | listMisaligned
  /-- A command list that ends inside a run of extra words (R240, U13). Safe. -/
  | listTruncated
  /-- A sub-list trigger followed by extra words of its own logical write (R254, U13). Safe. -/
  | sublistNotLast
deriving DecidableEq, Repr

/-- The outcome of a step of this machine. -/
abbrev Result := Host.Outcome State Fault Refusal

/-- The all-zero register, the model's reset value of every data register (assumption 4). -/
def zeroVec : Vec4 := ⟨0#24, 0#24, 0#24, 0#24⟩

/-- A unit right after reset (R285): control state as the spec says; data registers zero (assumption 4);
no program word and no descriptor written. -/
def ShaderUnit.reset : ShaderUnit where
  prog := []
  swz := []
  c := Vector.replicate 96 zeroVec
  v := Vector.replicate 16 zeroVec
  o := Vector.replicate 16 zeroVec
  r := Vector.replicate 16 zeroVec
  pc := 0
  a0x := 0#32
  a0y := 0#32
  al := 0#32
  ccx := false
  ccy := false
  stk := []
  run := .idle
  fuBuf := Vector.replicate 4 0#32
  fuN := 0

/-- The machine right after reset (R285). The reset contents of `HREG` are `hregReset` of
Machine/HostRegs.lean, over which `hreg` is empty. What guest memory holds and which addresses are mapped is
the platform's (R40), and R285 does not list it: the model starts with nothing mapped (assumption 38). -/
def State.reset : State where
  vs := ShaderUnit.reset
  gs := ShaderUnit.reset
  em := ⟨0#2, false, false, Vector.replicate 3 (Vector.replicate 16 zeroVec)⟩
  gp := .passthrough
  vout := []
  pa := ⟨[], [], 0, false, false⟩
  tri := []
  irq := []
  hreg := []
  guest := []
  cl := none
  draw := none
  daBuf := Vector.replicate 3 0#32
  daN := 0
  defaultAttrs := Vector.replicate 12 zeroVec
  immBuf := Vector.replicate 16 zeroVec
  immN := 0
  immFirst := false
  log := []
  hostCalls := []
  loader := []
  fresh := 0

end Sys2Proof.Machine
end

