-- ==== Sys2Proof/Machine/Ops.lean ====
section
/-! DEFINITION. The named operations over the state: stores of bytes and words, the accessors that read
the uniforms and the configuration out of the host registers, the choice of the executing unit,
instruction fetch, the program counter, the call stack with its frame check, and the anomaly record.

The block takes no exception and has no return from one (60_exceptions.md R271, R275, R276). What stands in
the place of an exception's entry is `State.raise`, the one operation by which every anomaly of R270 is
recorded. -/

namespace Sys2Proof.Machine

/-! ### Sparse stores in one canonical form -/

/-- The value listed at `k`. -/
def storeRead {α : Type} : List (Nat × α) → Nat → Option α
  | [], _ => none
  | (a, x) :: rest, k => if a = k then some x else storeRead rest k

/-- Put `x` at `k`, keeping the numbers strictly rising. -/
def storeWrite {α : Type} : List (Nat × α) → Nat → α → List (Nat × α)
  | [], k, x => [(k, x)]
  | (a, y) :: rest, k, x =>
    if k < a then (k, x) :: (a, y) :: rest
    else if k = a then (k, x) :: rest
    else (a, y) :: storeWrite rest k x

/-- Take the entry at `k` out. -/
def storeErase {α : Type} : List (Nat × α) → Nat → List (Nat × α)
  | [], _ => []
  | (a, y) :: rest, k => if a = k then rest else (a, y) :: storeErase rest k

/-- The numbers of a store rise strictly. -/
abbrev StoreRising {α : Type} (l : List (Nat × α)) : Prop := l.Pairwise (fun p q => p.1 < q.1)

/-- The canonical form of guest memory. An address not listed reads as no byte at all, so no listed byte
equals what an unlisted address reads as. -/
abbrev Memory.wf (m : Memory) : Prop := StoreRising m

/-- The canonical form of the host register file: no listed word equals the reset word of its number. -/
abbrev HregCanonical (l : WordStore) : Prop := StoreRising l ∧ ∀ p ∈ l, p.2 ≠ hregReset p.1

/-! ### Guest memory (R40, R42, R47) -/

/-- One byte of guest memory; `none` where nothing is mapped. -/
def memReadByte (m : Memory) (a : Nat) : Option Byte := storeRead m a

/-- Store one byte of guest memory (R7 `MemWrite`). The block never uses it (R47); the host does. -/
def memWriteByte (m : Memory) (a : Nat) (b : Byte) : Memory := storeWrite m a b

/-- `MemRead(a, 4)` (R42, R47): four bytes, the first least significant. The spec gives an address no width; it does
not wrap here (DESIGN CHOICE, assumption 39). -/
def memReadWord (m : Memory) (a : Nat) : Option Word :=
  match memReadByte m a, memReadByte m (a + 1), memReadByte m (a + 2), memReadByte m (a + 3) with
  | some b0, some b1, some b2, some b3 => some (wordOfBytes b0 b1 b2 b3)
  | _, _, _, _ => none

/-- Store a word of guest memory, least significant byte first (R42). -/
def memWriteWord (m : Memory) (a : Nat) (w : Word) : Memory :=
  memWriteByte (memWriteByte (memWriteByte (memWriteByte m a (field w 0 8)) (a + 1) (field w 8 8))
    (a + 2) (field w 16 8)) (a + 3) (field w 24 8)

/-! ### Units -/

/-- The unit `u`. -/
def State.unit (s : State) : UnitId → ShaderUnit
  | .vs => s.vs
  | .gs => s.gs

/-- Replace the unit `u`. -/
def State.setUnit (s : State) (u : UnitId) (x : ShaderUnit) : State :=
  match u with
  | .vs => { s with vs := x }
  | .gs => { s with gs := x }

/-- The unit `U` that executes (R7): the two never run at the same time (R207), so it is the geometry
unit when that runs, else the vertex unit (assumption 34). -/
def State.cur (s : State) : UnitId := if s.gs.run = .running then .gs else .vs

/-- The executing unit. -/
def State.curUnit (s : State) : ShaderUnit := s.unit s.cur

/-- Replace the executing unit. -/
def State.setCur (s : State) (x : ShaderUnit) : State := s.setUnit s.cur x

/-- `raise <Anomaly>` (R270): one more entry of `LOG`, and nothing else. -/
def State.raise (s : State) (a : Anomaly) : State := { s with log := s.log ++ [a] }

/-- `pc <- t` of the executing unit. -/
def State.jump (s : State) (t : Nat) : State := s.setCur { s.curUnit with pc := t }

/-- `pc <- pc + 1` (R17). -/
def State.advance (s : State) : State := s.jump (s.curUnit.pc + 1)

/-- Run `f` on the next state of a result, stopping where it stopped. -/
def seqR (r : Result) (f : State → Result) : Result :=
  match r with
  | .next s => f s
  | .fault e => .fault e
  | .refused e => .refused e

/-! ### Host registers and the values read out of them -/

/-- `HREG[id]`. -/
def State.hregRead (s : State) (id : Nat) : Word := (storeRead s.hreg id).getD (hregReset id)

/-- `HREG[id] <- w`, in canonical form. -/
def State.hregWrite (s : State) (id : Nat) (w : Word) : State :=
  { s with hreg := if w = hregReset id then storeErase s.hreg id else storeWrite s.hreg id w }

/-- `I[U][n]`, the register that holds it (R252). -/
def State.intUniform (s : State) (u : UnitId) (n : Fin 4) : Word := s.hregRead (regIuni u n)

/-- `I[U][n].x`, the repeat count (R13, R252). -/
def intX (w : Word) : BitVec 8 := field w 0 8

/-- `I[U][n].y`, the start value (R13, R252). -/
def intY (w : Word) : BitVec 8 := field w 8 8

/-- `I[U][n].z`, the increment (R13, R252). -/
def intZ (w : Word) : BitVec 8 := field w 16 8

/-- `I[U][n].w`, which no instruction reads (R13, R252). -/
def intW (w : Word) : BitVec 8 := field w 24 8

/-- `B[U][n]` (R14, R252). -/
def State.boolUniform (s : State) (u : UnitId) (n : Fin 16) : Bool := flagAt (s.hregRead (regBuni u)) n.val

/-- `ENTRY[U]` (R15, R253). -/
def State.entry (s : State) (u : UnitId) : Nat := (field (s.hregRead (regEntry u)) 0 16).toNat

/-- `NUM_IN[U]`, 1..16 (R27, R256); `GS_IN_NUM` is `NUM_IN[GS]`. -/
def State.numIn (s : State) (u : UnitId) : Nat := (field (s.hregRead (regInNum u)) 0 4).toNat + 1

/-- `IN_MAP[U][i]` (R27, R256). -/
def State.inMap (s : State) (u : UnitId) (i : Fin 16) : Fin 16 :=
  if i.val < 8 then Fin.ofNat 16 (field (s.hregRead (regInMap u)) (4 * i.val) 4).toNat
  else Fin.ofNat 16 (field (s.hregRead (regInMap u + 1)) (4 * (i.val - 8)) 4).toNat

/-- `OUT_MASK[U]` (R27, R256). -/
def State.outMask (s : State) (u : UnitId) : BitVec 16 := field (s.hregRead (regOutMask u)) 0 16

/-- `VS_OUT_NUM`, 1..16 (R27, R256). -/
def State.vsOutNum (s : State) : Nat := (field (s.hregRead regVsOutNum) 0 4).toNat + 1

/-- The field that holds `USE_GS` (R254): 0 No, 2 Yes, 1 and 3 unspecified. -/
def State.useGs (s : State) : BitVec 2 := field (s.hregRead regGsUse) 0 2

/-- The field that holds `GS_MODE` (R254): 0 Point, 1 VariablePrimitive, 2 FixedPrimitive, 3 unspecified. -/
def State.gsMode (s : State) : BitVec 2 := field (s.hregRead regGsConfig) 0 2

/-- `FIXED_VERTEX_NUM` (R254). -/
def State.fixedVertexNum (s : State) : Nat := (field (s.hregRead regGsConfig) 8 4).toNat + 1

/-- `FIXED_START` (R254). -/
def State.fixedStart (s : State) : Nat := (field (s.hregRead regGsConfig) 16 8).toNat

/-- `MAIN_VERTEX_NUM` (R254). -/
def State.mainVertexNum (s : State) : Nat := (field (s.hregRead regGsMainNum) 0 4).toNat + 1

/-- `GS_SHARED` (R255): bit 0 set means exclusive. -/
def State.gsShared (s : State) : Bool := !flagAt (s.hregRead regGsShared) 0

/-- `TOPOLOGY` (R254): 0 List, 1 Strip, 2 Fan, 3 Shader. -/
def State.topology (s : State) : Nat := (field (s.hregRead regTopology) 8 2).toNat

/-! ### Program memory and descriptor table (R10, R11, R44, R45) -/

/-- The address is inside `PROG[U]`: 512 words, for the geometry unit 512 plus an open number (R5, D13,
assumption 14). -/
def progInRange (u : UnitId) (a : Nat) : Bool :=
  decide (a < Config.vsProgWords) || (decide (u = .gs) && decide (a < Config.vsProgWords + Config.gsProgExtra))

/-- The word of `PROG[U]` at `a`: what was written, else the free content (assumption 7). -/
def progWord (u : UnitId) (x : ShaderUnit) (a : Nat) : Word :=
  (storeRead x.prog a).getD (Config.unwrittenProg u a)

/-- `ProgRead(a)` (R44); `none` beyond the end (U2). -/
def progRead (u : UnitId) (x : ShaderUnit) (a : Nat) : Option Word :=
  if progInRange u a then some (progWord u x a) else none

/-- `SWZ[U][d]`: what was written, else the free content (assumption 7). -/
def swzWord (u : UnitId) (x : ShaderUnit) (d : Nat) : Word :=
  (storeRead x.swz d).getD (Config.unwrittenSwz u d)

/-- The operand descriptor `SWZ[desc]` of the executing unit (R45, R130). -/
def State.descriptor (s : State) (d : Nat) : Word := swzWord s.cur s.curUnit d

/-! ### The call stack (R20, R170 to R172) -/

/-- What firing the top frame `f` over `rest` does (R171): AL is incremented, then the frame is popped
or repeats. -/
def fireFrame (x : ShaderUnit) (f : Frame) (rest : List Frame) : ShaderUnit :=
  let al := x.al + f.inc.setWidth 32
  if f.count = 0#8 then
    { x with pc := f.retAddr, al := if f.restoreAL then f.savedAL else al, stk := rest }
  else
    { x with pc := f.loopStart, al := al, stk := { f with count := f.count - 1#8 } :: rest }

/-- At most `n` rounds of the frame check (R171). -/
def frameRounds : Nat → ShaderUnit → ShaderUnit
  | 0, x => x
  | n + 1, x =>
    match x.stk with
    | [] => x
    | f :: rest => if x.pc = f.endAddr then frameRounds n (fireFrame x f rest) else x

/-- Enough rounds: each one pops a frame or counts one down. -/
def frameFuel (stk : List Frame) : Nat := (stk.map (fun f => f.count.toNat + 1)).sum

/-- `FrameCheck()` (R171). -/
def frameCheck (x : ShaderUnit) : ShaderUnit := frameRounds (frameFuel x.stk) x

/-- The executing unit after its frame check (R170). -/
def State.frameChecked (s : State) : State := s.setCur (frameCheck s.curUnit)

/-- The word the executing unit fetches next (R170). -/
def State.fetch (s : State) : Option Word := progRead s.cur s.curUnit s.curUnit.pc

/-- Push a frame and go to `t` (R172): a push onto a full stack is the fault of U3. -/
def State.pushFrame (s : State) (f : Frame) (t : Nat) : Result :=
  if s.curUnit.stk.length < Config.callStackDepth then
    .next (s.setCur { s.curUnit with stk := f :: s.curUnit.stk, pc := t })
  else .fault .callStackOverflow

/-- The frame of `Push` (R172), not a LOOP's. -/
def plainFrame (endAddr retAddr loopStart : Nat) : Frame :=
  ⟨endAddr, retAddr, 0#8, 0#8, loopStart, false, 0#32, false⟩

/-! ### Free components (assumption 8) -/

/-- The free component with number `n`: any canonical value (R92, assumption 8). -/
def freeComponent (n : Nat) : F24 := f24FromRaw (Config.freeF24 n)

/-- The four free components from number `n` on. -/
def freeVec (n : Nat) : Vec4 :=
  ⟨freeComponent n, freeComponent (n + 1), freeComponent (n + 2), freeComponent (n + 3)⟩

/-- Sixteen free registers from number `n` on: 64 components. -/
def freeRegs (n : Nat) : Vector Vec4 16 := Vector.ofFn (fun i => freeVec (n + 4 * i.val))

end Sys2Proof.Machine
end

