-- ==== Sys2Proof/Machine/Operands.lean ====
section
/-! DEFINITION. The operand pipeline every arithmetic instruction shares (41_vector_arith.md R130 to R134):
operand descriptor, source read with the address offset, selector and negation, destination write with
the component mask; and the five operand shapes of the formats (R61 to R65). -/

namespace Sys2Proof.Machine

/-! ### The operand descriptor (R70) -/

/-- `dest_mask`: bit 3 enables x, bit 0 enables w. -/
def descMask (d : Word) : BitVec 4 := field d 0 4
def descNeg1 (d : Word) : Bool := flagAt d 4
def descSel1 (d : Word) : BitVec 8 := field d 5 8
def descNeg2 (d : Word) : Bool := flagAt d 13
def descSel2 (d : Word) : BitVec 8 := field d 14 8
def descNeg3 (d : Word) : Bool := flagAt d 22
def descSel3 (d : Word) : BitVec 8 := field d 23 8

/-! ### Reading sources (R131, R132) -/

/-- The constant vector `ONES` (R22). -/
def onesVec : Vec4 := Vec4.splat oneF

/-- The address register an index names (R68). -/
def addrReg (x : ShaderUnit) : AddrIdx → Word
  | .none => 0#32
  | .a0x => x.a0x
  | .a0y => x.a0y
  | .aL => x.al

/-- The offset of R131 modulo 128: the address register inside [-128, 127], else 0. -/
def windowOffset (a : Word) : BitVec 7 :=
  if -128 ≤ a.toInt ∧ a.toInt ≤ 127 then a.setWidth 7 else 0#7

/-- The uniform index of R131. -/
def uniformIndex (x : ShaderUnit) (idx : AddrIdx) (base : BitVec 7) : BitVec 7 :=
  base + windowOffset (addrReg x idx)

/-- `C[i]`, or `ONES` from 96 up (R131). -/
def readUniform (x : ShaderUnit) (i : BitVec 7) : Vec4 :=
  if h : i.toNat < 96 then x.c[i.toNat] else onesVec

/-- `ReadSrc` of a 5-bit source (R131). -/
def readNarrow (x : ShaderUnit) : NarrowSrc → Vec4
  | .v n => x.v[n]
  | .r n => x.r[n]

/-- `ReadSrc` of a 7-bit source (R131): the offset applies to float uniforms only. -/
def readWide (x : ShaderUnit) (idx : AddrIdx) : WideSrc → Vec4
  | .v n => x.v[n]
  | .r n => x.r[n]
  | .c n => readUniform x (uniformIndex x idx n)

/-- `Swz(v, sel, neg)` (R71, R132). -/
def swizzle (v : Vec4) (sel : BitVec 8) (neg : Bool) : Vec4 :=
  let t : Vec4 := ⟨v.lane (sel.extractLsb' 6 2), v.lane (sel.extractLsb' 4 2),
    v.lane (sel.extractLsb' 2 2), v.lane (sel.extractLsb' 0 2)⟩
  if neg then t.map fneg else t

/-- Source 1 after its selector and negate flag (R72, R132). -/
def source1 (d : Word) (v : Vec4) : Vec4 := swizzle v (descSel1 d) (descNeg1 d)

/-- Source 2 (R72, R132). -/
def source2 (d : Word) (v : Vec4) : Vec4 := swizzle v (descSel2 d) (descNeg2 d)

/-- Source 3 (R72, R132). -/
def source3 (d : Word) (v : Vec4) : Vec4 := swizzle v (descSel3 d) (descNeg3 d)

/-! ### Writing the destination (R133) -/

/-- The enabled components from `new`, the others from `old` (R133). -/
def mergeVec (mask : BitVec 4) (old new : Vec4) : Vec4 :=
  ⟨if mask.getLsbD 3 then new.x else old.x, if mask.getLsbD 2 then new.y else old.y,
    if mask.getLsbD 1 then new.z else old.z, if mask.getLsbD 0 then new.w else old.w⟩

/-- `WriteDest` on a unit (R67, R133). -/
def writeDest (x : ShaderUnit) (dest : Dest) (mask : BitVec 4) (val : Vec4) : ShaderUnit :=
  match dest with
  | .o n => { x with o := x.o.set n.val (mergeVec mask x.o[n] val) n.isLt }
  | .r n => { x with r := x.r.set n.val (mergeVec mask x.r[n] val) n.isLt }

/-- The end of every arithmetic instruction with a destination: steps (6) and (7) of R130. -/
def State.finish (s : State) (dest : Dest) (d : Word) (val : Vec4) : Result :=
  .next (s.setCur { writeDest s.curUnit dest (descMask d) val with pc := s.curUnit.pc + 1 })

/-! ### The operand shapes -/

/-- Format 1 (R61): wide source 1, narrow source 2. -/
def runFormat1 (f : Vec4 → Vec4 → Vec4) (dest : Dest) (idx : AddrIdx) (src1 : WideSrc) (src2 : NarrowSrc)
    (desc : BitVec 7) (s : State) : Result :=
  let d := s.descriptor desc.toNat
  s.finish dest d (f (source1 d (readWide s.curUnit idx src1)) (source2 d (readNarrow s.curUnit src2)))

/-- Format 1i (R62): narrow source 1, wide source 2. -/
def runFormat1i (f : Vec4 → Vec4 → Vec4) (dest : Dest) (idx : AddrIdx) (src1 : NarrowSrc) (src2 : WideSrc)
    (desc : BitVec 7) (s : State) : Result :=
  let d := s.descriptor desc.toNat
  s.finish dest d (f (source1 d (readNarrow s.curUnit src1)) (source2 d (readWide s.curUnit idx src2)))

/-- Format 1u (R63): one wide source. -/
def runFormat1u (f : Vec4 → Vec4) (dest : Dest) (idx : AddrIdx) (src1 : WideSrc) (desc : BitVec 7)
    (s : State) : Result :=
  let d := s.descriptor desc.toNat
  s.finish dest d (f (source1 d (readWide s.curUnit idx src1)))

/-- Format 5 (R65): wide source 2. -/
def runFormat5 (f : Vec4 → Vec4 → Vec4 → Vec4) (dest : Dest) (idx : AddrIdx) (src1 : NarrowSrc)
    (src2 : WideSrc) (src3 : NarrowSrc) (desc : BitVec 5) (s : State) : Result :=
  let d := s.descriptor desc.toNat
  s.finish dest d (f (source1 d (readNarrow s.curUnit src1)) (source2 d (readWide s.curUnit idx src2))
    (source3 d (readNarrow s.curUnit src3)))

/-- Format 5i (R65): wide source 3. -/
def runFormat5i (f : Vec4 → Vec4 → Vec4 → Vec4) (dest : Dest) (idx : AddrIdx) (src1 src2 : NarrowSrc)
    (src3 : WideSrc) (desc : BitVec 5) (s : State) : Result :=
  let d := s.descriptor desc.toNat
  s.finish dest d (f (source1 d (readNarrow s.curUnit src1)) (source2 d (readNarrow s.curUnit src2))
    (source3 d (readWide s.curUnit idx src3)))

/-- A scalar function of component 0, in every component (R160). -/
def broadcastX (f : F24 → F24) (a : Vec4) : Vec4 := Vec4.splat (f a.x)

end Sys2Proof.Machine
end

