-- ==== Sys2Proof/Machine/Flags.lean ====
section
/-! DEFINITION. The conditional codes (10_state.md R19): how CMP computes them (42_scalar_cmp_mova.md R166,
R167) and how conditional flow control reads them (43_flow_control.md R173). The ALU has no other flag
(40_f24_alu.md R121). -/

namespace Sys2Proof.Machine

/-- `Compare(op, a, b)` (R166); `none` for the unassigned operators (R167). -/
def compareOp (op : CmpOp) (a b : F24) : Option Bool :=
  match op with
  | .eq => some (fcmpEq a b)
  | .ne => some (fcmpNe a b)
  | .lt => some (fcmpLt a b)
  | .le => some (fcmpLe a b)
  | .gt => some (fcmpGt a b)
  | .ge => some (fcmpGe a b)
  | .unassigned6 => none
  | .unassigned7 => none

/-- The new value of a conditional code: unchanged under an unassigned operator (R167). -/
def newCode (op : CmpOp) (a b : F24) (old : Bool) : Bool := (compareOp op a b).getD old

/-- The anomaly of an unassigned operator at `pc` (R167). -/
def badOpRecord (pc : Nat) (op : CmpOp) : List Anomaly :=
  match op with
  | .unassigned6 => [.badCompareOp pc 6]
  | .unassigned7 => [.badCompareOp pc 7]
  | _ => []

/-- `Cond(refx, refy, condop)` (R173). -/
def evalCond (x : ShaderUnit) (refx refy : Bool) (cond : CondOp) : Bool :=
  match cond with
  | .or => x.ccx == refx || x.ccy == refy
  | .and => x.ccx == refx && x.ccy == refy
  | .justX => x.ccx == refx
  | .justY => x.ccy == refy

end Sys2Proof.Machine
end

