-- ==== Sys2Proof/Machine/VectorArith.lean ====
section
/-! DEFINITION. The vector arithmetic instructions (41_vector_arith.md R135 to R153), each a definition of
its own over the operand shapes of Machine/Operands.lean. DST, DSTI and LIT are the no-operations with an
anomaly that R151 to R153 make them. -/

namespace Sys2Proof.Machine

/-- An assigned opcode without semantics in the source (R151, R175, D20): the anomaly, then the next
instruction. -/
def State.skipUnimplemented (s : State) (opcode : Nat) : Result :=
  .next (s.raise (.unimplementedOpcode s.curUnit.pc opcode)).advance

/-- ADD (R135). -/
def execAdd (dest : Dest) (idx : AddrIdx) (src1 : WideSrc) (src2 : NarrowSrc) (desc : BitVec 7) (s : State) : Result :=
  runFormat1 (Vec4.map2 fadd) dest idx src1 src2 desc s

/-- MUL (R136). -/
def execMul (dest : Dest) (idx : AddrIdx) (src1 : WideSrc) (src2 : NarrowSrc) (desc : BitVec 7) (s : State) : Result :=
  runFormat1 (Vec4.map2 fmul) dest idx src1 src2 desc s

/-- MAD (R137). -/
def execMad (dest : Dest) (idx : AddrIdx) (src1 : NarrowSrc) (src2 : WideSrc) (src3 : NarrowSrc)
    (desc : BitVec 5) (s : State) : Result :=
  runFormat5 (Vec4.map3 fmad) dest idx src1 src2 src3 desc s

/-- MADI (R138). -/
def execMadi (dest : Dest) (idx : AddrIdx) (src1 src2 : NarrowSrc) (src3 : WideSrc) (desc : BitVec 5)
    (s : State) : Result :=
  runFormat5i (Vec4.map3 fmad) dest idx src1 src2 src3 desc s

/-- MAX (R143). -/
def execMax (dest : Dest) (idx : AddrIdx) (src1 : WideSrc) (src2 : NarrowSrc) (desc : BitVec 7) (s : State) : Result :=
  runFormat1 (Vec4.map2 fmax) dest idx src1 src2 desc s

/-- MIN (R144). -/
def execMin (dest : Dest) (idx : AddrIdx) (src1 : WideSrc) (src2 : NarrowSrc) (desc : BitVec 7) (s : State) : Result :=
  runFormat1 (Vec4.map2 fmin) dest idx src1 src2 desc s

/-- FLR (R145). -/
def execFlr (dest : Dest) (idx : AddrIdx) (src1 : WideSrc) (desc : BitVec 7) (s : State) : Result :=
  runFormat1u (Vec4.map ffloor) dest idx src1 desc s

/-- MOV (R146): a bit copy. -/
def execMov (dest : Dest) (idx : AddrIdx) (src1 : WideSrc) (desc : BitVec 7) (s : State) : Result :=
  runFormat1u id dest idx src1 desc s

/-- SGE (R147). -/
def execSge (dest : Dest) (idx : AddrIdx) (src1 : WideSrc) (src2 : NarrowSrc) (desc : BitVec 7) (s : State) : Result :=
  runFormat1 (Vec4.map2 fsge) dest idx src1 src2 desc s

/-- SGEI (R148): inversion does not swap the operands. -/
def execSgei (dest : Dest) (idx : AddrIdx) (src1 : NarrowSrc) (src2 : WideSrc) (desc : BitVec 7) (s : State) : Result :=
  runFormat1i (Vec4.map2 fsge) dest idx src1 src2 desc s

/-- SLT (R149). -/
def execSlt (dest : Dest) (idx : AddrIdx) (src1 : WideSrc) (src2 : NarrowSrc) (desc : BitVec 7) (s : State) : Result :=
  runFormat1 (Vec4.map2 fslt) dest idx src1 src2 desc s

/-- SLTI (R150). -/
def execSlti (dest : Dest) (idx : AddrIdx) (src1 : NarrowSrc) (src2 : WideSrc) (desc : BitVec 7) (s : State) : Result :=
  runFormat1i (Vec4.map2 fslt) dest idx src1 src2 desc s

/-- DP3 (R139). -/
def execDp3 (dest : Dest) (idx : AddrIdx) (src1 : WideSrc) (src2 : NarrowSrc) (desc : BitVec 7) (s : State) : Result :=
  runFormat1 (fun a b => Vec4.splat (fdot3 a b)) dest idx src1 src2 desc s

/-- DP4 (R140). -/
def execDp4 (dest : Dest) (idx : AddrIdx) (src1 : WideSrc) (src2 : NarrowSrc) (desc : BitVec 7) (s : State) : Result :=
  runFormat1 (fun a b => Vec4.splat (fdot4 a b)) dest idx src1 src2 desc s

/-- DPH (R141). -/
def execDph (dest : Dest) (idx : AddrIdx) (src1 : WideSrc) (src2 : NarrowSrc) (desc : BitVec 7) (s : State) : Result :=
  runFormat1 (fun a b => Vec4.splat (fdot4 (homogeneous a) b)) dest idx src1 src2 desc s

/-- DPHI (R142): it is still source 1 whose w becomes ONE. -/
def execDphi (dest : Dest) (idx : AddrIdx) (src1 : NarrowSrc) (src2 : WideSrc) (desc : BitVec 7) (s : State) : Result :=
  runFormat1i (fun a b => Vec4.splat (fdot4 (homogeneous a) b)) dest idx src1 src2 desc s

/-- DST (R151). -/
def execDst (_dest : Dest) (_idx : AddrIdx) (_src1 : WideSrc) (_src2 : NarrowSrc) (_desc : BitVec 7)
    (s : State) : Result :=
  s.skipUnimplemented 0x04

/-- DSTI (R152). -/
def execDsti (_dest : Dest) (_idx : AddrIdx) (_src1 : NarrowSrc) (_src2 : WideSrc) (_desc : BitVec 7)
    (s : State) : Result :=
  s.skipUnimplemented 0x19

/-- LIT (R153). -/
def execLit (_dest : Dest) (_idx : AddrIdx) (_src1 : WideSrc) (_desc : BitVec 7) (s : State) : Result :=
  s.skipUnimplemented 0x07

end Sys2Proof.Machine
end

