-- ==== Sys2Proof/Machine/Flow.lean ====
section
/-! DEFINITION. The flow-control instructions and the unassigned opcodes (43_flow_control.md R174 to R186),
over the call stack of Machine/Ops.lean. -/

namespace Sys2Proof.Machine

/-! ### Instructions without a target -/

/-- NOP (R174). -/
def execNop (s : State) : Result := .next s.advance

/-- END (R176): the unit halts, `pc` stays. -/
def execEnd (s : State) : Result := .next (s.setCur { s.curUnit with run := .halted })

/-- BREAK (R175). -/
def execBreak (s : State) : Result := s.skipUnimplemented 0x20

/-- BREAKC (R177): the condition is not read. -/
def execBreakc (_refx _refy : Bool) (_cond : CondOp) (_target : BitVec 12) (_num : BitVec 8) (s : State) :
    Result :=
  s.skipUnimplemented 0x23

/-! ### Calls (R178 to R180) -/

/-- The taken call of R178. -/
def State.takeCall (s : State) (target : BitVec 12) (num : BitVec 8) : Result :=
  s.pushFrame (plainFrame (target.toNat + num.toNat) (s.curUnit.pc + 1) target.toNat) target.toNat

/-- CALL (R178). -/
def execCall (target : BitVec 12) (num : BitVec 8) (s : State) : Result := s.takeCall target num

/-- CALLC (R179). -/
def execCallc (refx refy : Bool) (cond : CondOp) (target : BitVec 12) (num : BitVec 8) (s : State) :
    Result :=
  if evalCond s.curUnit refx refy cond then s.takeCall target num else .next s.advance

/-- CALLU (R180). -/
def execCallu (boolId : Fin 16) (target : BitVec 12) (num : BitVec 8) (s : State) : Result :=
  if s.boolUniform s.cur boolId then s.takeCall target num else .next s.advance

/-! ### Conditionals (R181, R182) -/

/-- If-then-else on a condition already evaluated (R181). -/
def State.takeIf (s : State) (c : Bool) (target : BitVec 12) (num : BitVec 8) : Result :=
  if c then
    s.pushFrame (plainFrame target.toNat (target.toNat + num.toNat) (s.curUnit.pc + 1)) (s.curUnit.pc + 1)
  else
    s.pushFrame (plainFrame (target.toNat + num.toNat) (target.toNat + num.toNat) target.toNat) target.toNat

/-- IFU (R181). -/
def execIfu (boolId : Fin 16) (target : BitVec 12) (num : BitVec 8) (s : State) : Result :=
  s.takeIf (s.boolUniform s.cur boolId) target num

/-- IFC (R182). -/
def execIfc (refx refy : Bool) (cond : CondOp) (target : BitVec 12) (num : BitVec 8) (s : State) :
    Result :=
  s.takeIf (evalCond s.curUnit refx refy cond) target num

/-! ### LOOP (R183) -/

/-- The frame a LOOP on the integer uniform word `w` pushes (R183): a LOOP inside another one saves AL. -/
def loopFrame (x : ShaderUnit) (w : Word) (target : BitVec 12) : Frame :=
  let nested := x.stk.any (·.isLoop)
  { endAddr := target.toNat + 1
    retAddr := target.toNat + 1
    count := intX w
    inc := intZ w
    loopStart := x.pc + 1
    restoreAL := nested
    savedAL := if nested then x.al else 0#32
    isLoop := true }

/-- LOOP (R183). -/
def execLoop (intId : Fin 4) (target : BitVec 12) (s : State) : Result :=
  let u := s.curUnit
  let w := s.intUniform s.cur intId
  (s.setCur { u with al := (intY w).setWidth 32 }).pushFrame (loopFrame u w target) (u.pc + 1)

/-! ### Jumps (R184, R185) -/

/-- JMPC (R184). -/
def execJmpc (refx refy : Bool) (cond : CondOp) (target : BitVec 12) (s : State) : Result :=
  .next (if evalCond s.curUnit refx refy cond then s.jump target.toNat else s.advance)

/-- JMPU (R185): `invert` is `num[0]`. -/
def execJmpu (boolId : Fin 16) (target : BitVec 12) (invert : Bool) (s : State) : Result :=
  .next (if s.boolUniform s.cur boolId == !invert then s.jump target.toNat else s.advance)

/-! ### Unassigned opcodes (R186) -/

/-- The no-operation with an anomaly of R186. -/
def State.skipUnknown (s : State) (opcode : Nat) : Result :=
  .next (s.raise (.unknownOpcode s.curUnit.pc opcode)).advance

/-- Opcode 0x10 (R186). -/
def execUnassigned10 (s : State) : Result := s.skipUnknown 0x10

/-- Opcode 0x11 (R186). -/
def execUnassigned11 (s : State) : Result := s.skipUnknown 0x11

/-- Opcode 0x14 (R186). -/
def execUnassigned14 (s : State) : Result := s.skipUnknown 0x14

/-- Opcode 0x15 (R186). -/
def execUnassigned15 (s : State) : Result := s.skipUnknown 0x15

/-- Opcode 0x16 (R186). -/
def execUnassigned16 (s : State) : Result := s.skipUnknown 0x16

/-- Opcode 0x17 (R186). -/
def execUnassigned17 (s : State) : Result := s.skipUnknown 0x17

/-- Opcode 0x1C (R186). -/
def execUnassigned1C (s : State) : Result := s.skipUnknown 0x1C

/-- Opcode 0x1D (R186). -/
def execUnassigned1D (s : State) : Result := s.skipUnknown 0x1D

/-- Opcode 0x1E (R186). -/
def execUnassigned1E (s : State) : Result := s.skipUnknown 0x1E

/-- Opcode 0x1F (R186). -/
def execUnassigned1F (s : State) : Result := s.skipUnknown 0x1F

end Sys2Proof.Machine
end

