-- ==== Sys2Proof/Machine/GeometryEmit.lean ====
section
/-! DEFINITION. The geometry emitter (44_geometry_emit.md R195 to R200) and `Pack` (45_geometry_pipeline.md
R208), which EMIT and the vertex output stage share. -/

namespace Sys2Proof.Machine

/-- `Pack(regs, mask)` (R208): the enabled registers in ascending order. -/
def packRegs (regs : Vector Vec4 16) (mask : BitVec 16) : Vertex :=
  (List.finRange 16).filterMap (fun i => if mask.getLsbD i.val then some regs[i] else none)

/-- What EMIT pushes (R197, R199): an optional winding marker, then the three slots in order. -/
def emitEntries (em : Emitter) (mask : BitVec 16) : List VoutEntry :=
  (if em.winding then [.windingMarker] else []) ++
    [.vertex (packRegs em.buf[0] mask), .vertex (packRegs em.buf[1] mask), .vertex (packRegs em.buf[2] mask)]

/-- SETEMIT (R196). On the vertex unit, which has no emitter, it has no behaviour (U11). A `vertex_id` of 3
is stored. -/
def execSetemit (vertexId : BitVec 2) (primEmit winding : Bool) (s : State) : Result :=
  if s.cur = .gs then
    .next { s with em := { s.em with vertexId := vertexId, primEmit := primEmit, winding := winding } }.advance
  else .refused .emitterAbsent

/-- EMIT (R197 to R200): copy all output registers into the slot, then push if `prim_emit`. -/
def execEmit (s : State) : Result :=
  if s.cur = .gs then
    if h : s.em.vertexId.toNat < 3 then
      let em := { s.em with buf := s.em.buf.set s.em.vertexId.toNat s.curUnit.o h }
      .next { s with
        em := em
        vout := s.vout ++ (if em.primEmit then emitEntries em (s.outMask .gs) else []) }.advance
    else .refused .emitSlotOutOfRange
  else .refused .emitterAbsent

end Sys2Proof.Machine
end

