-- ==== Sys2Proof/Machine/Scalar.lean ====
section
/-! DEFINITION. The scalar functions, MOVA and CMP (42_scalar_cmp_mova.md R160 to R167). -/

namespace Sys2Proof.Machine

/-- RCP (R161). -/
def execRcp (dest : Dest) (idx : AddrIdx) (src1 : WideSrc) (desc : BitVec 7) (s : State) : Result :=
  runFormat1u (broadcastX frcp) dest idx src1 desc s

/-- RSQ (R162). -/
def execRsq (dest : Dest) (idx : AddrIdx) (src1 : WideSrc) (desc : BitVec 7) (s : State) : Result :=
  runFormat1u (broadcastX frsq) dest idx src1 desc s

/-- EX2 (R163). -/
def execEx2 (dest : Dest) (idx : AddrIdx) (src1 : WideSrc) (desc : BitVec 7) (s : State) : Result :=
  runFormat1u (broadcastX fex2) dest idx src1 desc s

/-- LG2 (R164). -/
def execLg2 (dest : Dest) (idx : AddrIdx) (src1 : WideSrc) (desc : BitVec 7) (s : State) : Result :=
  runFormat1u (broadcastX flg2) dest idx src1 desc s

/-- MOVA (R165): mask bits 3 and 2 enable A0X and A0Y, the two others have no effect. -/
def execMova (idx : AddrIdx) (src1 : WideSrc) (desc : BitVec 7) (s : State) : Result :=
  let d := s.descriptor desc.toNat
  let u := s.curUnit
  let a := source1 d (readWide u idx src1)
  .next (s.setCur { u with
    a0x := if (descMask d).getLsbD 3 then ftoi a.x else u.a0x
    a0y := if (descMask d).getLsbD 2 then ftoi a.y else u.a0y
    pc := u.pc + 1 })

/-- CMP (R166, R167): both conditional codes, an unassigned operator leaving its code and recording an
anomaly, x first (R274). -/
def execCmp (cmpx cmpy : CmpOp) (idx : AddrIdx) (src1 : WideSrc) (src2 : NarrowSrc) (desc : BitVec 7)
    (s : State) : Result :=
  let d := s.descriptor desc.toNat
  let u := s.curUnit
  let a := source1 d (readWide u idx src1)
  let b := source2 d (readNarrow u src2)
  .next ((badOpRecord u.pc cmpx ++ badOpRecord u.pc cmpy).foldl State.raise
    (s.setCur { u with
      ccx := newCode cmpx a.x b.x u.ccx
      ccy := newCode cmpy a.y b.y u.ccy
      pc := u.pc + 1 }))

end Sys2Proof.Machine
end

