-- ==== Sys2Proof/Machine/Dispatch.lean ====
section
/-! DEFINITION. The dispatch of an instruction to its meaning: one arm per constructor of `Instr`. -/

namespace Sys2Proof.Machine

def exec (i : Instr) (s : State) : Host.Outcome State Fault Refusal :=
  match i with
  | .add dest idx src1 src2 desc => Sys2Proof.Machine.execAdd dest idx src1 src2 desc s
  | .dp3 dest idx src1 src2 desc => Sys2Proof.Machine.execDp3 dest idx src1 src2 desc s
  | .dp4 dest idx src1 src2 desc => Sys2Proof.Machine.execDp4 dest idx src1 src2 desc s
  | .dph dest idx src1 src2 desc => Sys2Proof.Machine.execDph dest idx src1 src2 desc s
  | .dst dest idx src1 src2 desc => Sys2Proof.Machine.execDst dest idx src1 src2 desc s
  | .ex2 dest idx src1 desc => Sys2Proof.Machine.execEx2 dest idx src1 desc s
  | .lg2 dest idx src1 desc => Sys2Proof.Machine.execLg2 dest idx src1 desc s
  | .lit dest idx src1 desc => Sys2Proof.Machine.execLit dest idx src1 desc s
  | .mul dest idx src1 src2 desc => Sys2Proof.Machine.execMul dest idx src1 src2 desc s
  | .sge dest idx src1 src2 desc => Sys2Proof.Machine.execSge dest idx src1 src2 desc s
  | .slt dest idx src1 src2 desc => Sys2Proof.Machine.execSlt dest idx src1 src2 desc s
  | .flr dest idx src1 desc => Sys2Proof.Machine.execFlr dest idx src1 desc s
  | .max dest idx src1 src2 desc => Sys2Proof.Machine.execMax dest idx src1 src2 desc s
  | .min dest idx src1 src2 desc => Sys2Proof.Machine.execMin dest idx src1 src2 desc s
  | .rcp dest idx src1 desc => Sys2Proof.Machine.execRcp dest idx src1 desc s
  | .rsq dest idx src1 desc => Sys2Proof.Machine.execRsq dest idx src1 desc s
  | .mova idx src1 desc => Sys2Proof.Machine.execMova idx src1 desc s
  | .mov dest idx src1 desc => Sys2Proof.Machine.execMov dest idx src1 desc s
  | .dphi dest idx src1 src2 desc => Sys2Proof.Machine.execDphi dest idx src1 src2 desc s
  | .dsti dest idx src1 src2 desc => Sys2Proof.Machine.execDsti dest idx src1 src2 desc s
  | .sgei dest idx src1 src2 desc => Sys2Proof.Machine.execSgei dest idx src1 src2 desc s
  | .slti dest idx src1 src2 desc => Sys2Proof.Machine.execSlti dest idx src1 src2 desc s
  | .brk => Sys2Proof.Machine.execBreak s
  | .nop => Sys2Proof.Machine.execNop s
  | .endProg => Sys2Proof.Machine.execEnd s
  | .breakc refx refy cond target num => Sys2Proof.Machine.execBreakc refx refy cond target num s
  | .call target num => Sys2Proof.Machine.execCall target num s
  | .callc refx refy cond target num => Sys2Proof.Machine.execCallc refx refy cond target num s
  | .callu boolId target num => Sys2Proof.Machine.execCallu boolId target num s
  | .ifu boolId target num => Sys2Proof.Machine.execIfu boolId target num s
  | .ifc refx refy cond target num => Sys2Proof.Machine.execIfc refx refy cond target num s
  | .loop intId target => Sys2Proof.Machine.execLoop intId target s
  | .emit => Sys2Proof.Machine.execEmit s
  | .setemit vertexId primEmit winding => Sys2Proof.Machine.execSetemit vertexId primEmit winding s
  | .jmpc refx refy cond target => Sys2Proof.Machine.execJmpc refx refy cond target s
  | .jmpu boolId target invert => Sys2Proof.Machine.execJmpu boolId target invert s
  | .cmp cmpx cmpy idx src1 src2 desc => Sys2Proof.Machine.execCmp cmpx cmpy idx src1 src2 desc s
  | .madi dest idx src1 src2 src3 desc => Sys2Proof.Machine.execMadi dest idx src1 src2 src3 desc s
  | .mad dest idx src1 src2 src3 desc => Sys2Proof.Machine.execMad dest idx src1 src2 src3 desc s
  | .unassigned10 => Sys2Proof.Machine.execUnassigned10 s
  | .unassigned11 => Sys2Proof.Machine.execUnassigned11 s
  | .unassigned14 => Sys2Proof.Machine.execUnassigned14 s
  | .unassigned15 => Sys2Proof.Machine.execUnassigned15 s
  | .unassigned16 => Sys2Proof.Machine.execUnassigned16 s
  | .unassigned17 => Sys2Proof.Machine.execUnassigned17 s
  | .unassigned1C => Sys2Proof.Machine.execUnassigned1C s
  | .unassigned1D => Sys2Proof.Machine.execUnassigned1D s
  | .unassigned1E => Sys2Proof.Machine.execUnassigned1E s
  | .unassigned1F => Sys2Proof.Machine.execUnassigned1F s

end Sys2Proof.Machine
end

