-- ==== Sys2Proof/Machine/Assembler.lean ====
section
/-! DEFINITION. The primitive assembler, consumer of the vertex-output FIFO (45_geometry_pipeline.md R228 to
R235). -/

namespace Sys2Proof.Machine

/-- `PA.Reset` (R234): the buffered vertices are forgotten. -/
def Assembler.reset (p : Assembler) : Assembler :=
  { p with idx := 0, stripReady := false, winding := false }

/-- `PA.IsEmpty()` (R234). -/
def Assembler.isEmpty (p : Assembler) : Bool := decide (p.idx = 0) && !p.stripReady

/-- `PA.buf[PA.idx] <- v`. -/
def Assembler.put (p : Assembler) (v : Vertex) : Assembler :=
  if p.idx = 0 then { p with buf0 := v } else if p.idx = 1 then { p with buf1 := v } else p

/-- List topology (R229): the assembler after `v`, and the triangle it completes. -/
def submitList (p : Assembler) (v : Vertex) : Assembler × List Triangle :=
  if p.idx < 2 then ({ p.put v with idx := p.idx + 1 }, [])
  else ({ p with idx := 0 }, [⟨p.buf0, p.buf1, v⟩])

/-- The triangle of a strip or fan once two vertices are buffered (R230, R231). -/
def readyTriangle (p : Assembler) (v : Vertex) : List Triangle :=
  if p.stripReady then [⟨p.buf0, p.buf1, v⟩] else []

/-- Strip topology (R230): the slot written alternates. -/
def submitStrip (p : Assembler) (v : Vertex) : Assembler × List Triangle :=
  ({ p.put v with stripReady := p.stripReady || decide (p.idx = 1), idx := 1 - p.idx }, readyTriangle p v)

/-- Fan topology (R231): slot 0 stays, slot 1 is replaced. -/
def submitFan (p : Assembler) (v : Vertex) : Assembler × List Triangle :=
  ({ p.put v with stripReady := p.stripReady || decide (p.idx = 1), idx := 1 }, readyTriangle p v)

/-- Shader topology (R232): List, but a winding marker inverts the next completed triangle only. -/
def submitShader (p : Assembler) (v : Vertex) : Assembler × List Triangle :=
  if p.idx < 2 then ({ p.put v with idx := p.idx + 1 }, [])
  else if p.winding then ({ p with idx := 0, winding := false }, [⟨p.buf1, p.buf0, v⟩])
  else ({ p with idx := 0 }, [⟨p.buf0, p.buf1, v⟩])

/-- The assembler and the triangles after `v` under a topology value (R229 to R232); `none` for a value
that is none of the four (R233). -/
def submitTopology (value : Nat) (p : Assembler) (v : Vertex) : Option (Assembler × List Triangle) :=
  if value = 0 then some (submitList p v)
  else if value = 1 then some (submitStrip p v)
  else if value = 2 then some (submitFan p v)
  else if value = 3 then some (submitShader p v)
  else none

/-- `PA.Submit(v)` under the topology value `value` (R228 to R233). -/
def State.paSubmit (s : State) (value : Nat) (v : Vertex) : State :=
  match submitTopology value s.pa v with
  | some (p, ts) => { s with pa := p, tri := s.tri ++ ts }
  | none => s.raise (.unknownTopology value)

/-- `PA.Consume(entry)` (R228). -/
def State.paConsume (s : State) : VoutEntry → State
  | .windingMarker => { s with pa := { s.pa with winding := true } }
  | .vertex a => s.paSubmit s.topology a

end Sys2Proof.Machine
end

