-- ==== Sys2Proof/Machine/Geometry.lean ====
section
/-! DEFINITION. The invocation protocol of the shader units and the geometry pipeline between them
(45_geometry_pipeline.md R205 to R224). -/

namespace Sys2Proof.Machine

/-! ### Invocations (R205 to R207) -/

/-- The invocation-start state of unit `u` (R205): temporaries and outputs hold free values. -/
def State.startUnit (s : State) (u : UnitId) : State :=
  { s.setUnit u { s.unit u with
      pc := s.entry u
      a0x := 0#32
      a0y := 0#32
      al := 0#32
      ccx := false
      ccy := false
      stk := []
      run := .running
      r := freeRegs s.fresh
      o := freeRegs (s.fresh + 64) } with
    fresh := s.fresh + 128 }

/-- `LoadInput` on an input file (R206): attribute `i` goes to register `map i`, for `i < n`. -/
def loadInput (v : Vector Vec4 16) (a : Vector Vec4 16) (map : Fin 16 → Fin 16) (n : Nat) : Vector Vec4 16 :=
  (List.finRange 16).foldl (fun v i => if i.val < n then v.set (map i).val a[i] (map i).isLt else v) v

/-- `LoadInput(U, A)` (R206) of `n` attributes: `NUM_IN[VS]` of the moment for the vertex unit, the copy of
`GS_IN_NUM` sampled by Reconfigure for the geometry unit (R210, R213, R256). -/
def State.loadUnit (s : State) (u : UnitId) (a : Vector Vec4 16) (n : Nat) : State :=
  s.setUnit u { s.unit u with v := loadInput (s.unit u).v a (s.inMap u) n }

/-- Load the attributes and start the vertex unit: the first part of `RunVS(A)` (R257, R258). -/
def State.startVs (s : State) (a : Vector Vec4 16) : State := (s.loadUnit .vs a (s.numIn .vs)).startUnit .vs

/-! ### Status and reconfiguration (R210, R212, R214) -/

/-- `IsEmpty()` (R214). -/
def Backend.isEmpty : Backend → Bool
  | .passthrough => true
  | .point _ _ _ cur => cur = 0
  | .variablePrim _ left => left.isNone
  | .fixedPrim _ first _ cur => cur = first

/-- `NeedIndexInput()` (R214). -/
def Backend.needIndex : Backend → Bool
  | .variablePrim _ left => left.isNone
  | .passthrough => false
  | .point .. => false
  | .fixedPrim .. => false

/-- The backend the configuration selects (R210), sampled now; `none` where the configuration is one the
spec leaves unspecified (R212, R220, R254, U16). -/
def State.selectBackend (s : State) : Option Backend :=
  if s.useGs = 0#2 then some .passthrough
  else if s.useGs = 2#2 then
    if s.gsMode = 0#2 then
      if s.numIn .gs % s.vsOutNum = 0 then some (.point s.vsOutNum (s.numIn .gs) (freeRegs s.fresh) 0) else none
    else if s.gsMode = 1#2 then some (.variablePrim s.vsOutNum none)
    else if s.gsMode = 2#2 then
      if s.fixedStart + s.vsOutNum * s.fixedVertexNum ≤ 96 then
        some (.fixedPrim s.vsOutNum s.fixedStart (s.fixedStart + s.vsOutNum * s.fixedVertexNum) s.fixedStart)
      else none
    else none
  else none

/-- `Reconfigure()` (R210): the pipeline must be empty. -/
def State.reconfigure (s : State) : Result :=
  if s.gp.isEmpty then
    match s.selectBackend with
    | some b => .next { s with gp := b, fresh := s.fresh + 64 }
    | none => .refused .geometryConfig
  else .refused .pipelineNotEmpty

/-! ### Submitting (R211, R213, R216, R217, R221, R224) -/

/-- Attribute `i` of a packed vertex; a missing one is free (R208, U16): free components from number
`free` on. -/
def attrAt (free : Nat) (a : Vertex) (i : Nat) : Vec4 := a.getD i (freeVec (free + 4 * i))

/-- The first `n` attributes (R213, R217, R221). -/
def attrList (free : Nat) (a : Vertex) (n : Nat) : List Vec4 := (List.range n).map (attrAt free a)

/-- Write registers from number `k` on, dropping what falls beyond the last (R213). -/
def writeFrom {n : Nat} (file : Vector Vec4 n) : Nat → List Vec4 → Vector Vec4 n
  | _, [] => file
  | k, x :: rest => writeFrom (file.setIfInBounds k x) (k + 1) rest

/-- Write the geometry unit's float uniforms from slot `k` on (R217, R221); above c95 the spec leaves the
write unspecified (U16). -/
def State.writeGsUniforms (s : State) (k : Nat) (xs : List Vec4) : Result :=
  if k + xs.length ≤ 96 then .next { s with gs := { s.gs with c := writeFrom s.gs.c k xs } }
  else .refused .uniformSlotOutOfRange

/-- Start a GS invocation (R223). -/
def State.invokeGs (s : State) : State := s.startUnit .gs

/-- `GP.SubmitVertex(A)` (R224). -/
def State.gpSubmitVertex (s : State) (a : Vertex) : Result :=
  match s.gp with
  | .passthrough => .next { s with vout := s.vout ++ [.vertex a] }
  | .point vsOut inNum buf cur =>
    let buf' := writeFrom buf cur (attrList s.fresh a vsOut)
    let s' := { s with fresh := s.fresh + 64 }
    if cur + vsOut = inNum then
      .next ({ s' with gp := .point vsOut inNum buf' 0 }.loadUnit .gs buf' inNum).invokeGs
    else .next { s' with gp := .point vsOut inNum buf' (cur + vsOut) }
  | .variablePrim _ none => .refused .indexProtocol
  | .variablePrim vsOut (some p) =>
    let isMain := decide (p.mainLeft ≠ 0)
    let n := if isMain then vsOut else 1
    let s' := { s with
      fresh := s.fresh + 64
      gp := .variablePrim vsOut (if p.totalLeft = 1 then none else
        some ⟨if isMain then p.mainLeft - 1 else p.mainLeft, p.totalLeft - 1, p.varCur + n⟩) }
    seqR (s'.writeGsUniforms p.varCur (attrList s.fresh a n)) fun t =>
      .next (if p.totalLeft = 1 then t.invokeGs else t)
  | .fixedPrim vsOut first last cur =>
    let s' := { s with
      fresh := s.fresh + 64
      gp := .fixedPrim vsOut first last (if cur + vsOut = last then first else cur + vsOut) }
    seqR (s'.writeGsUniforms cur (attrList s.fresh a vsOut)) fun t =>
      .next (if cur + vsOut = last then t.invokeGs else t)

/-- `GP.SubmitIndex(n)` (R216): the count goes to c0 of the geometry unit. -/
def State.gpSubmitIndex (s : State) (n : BitVec 16) : Result :=
  match s.gp with
  | .variablePrim vsOut none =>
    if n = 0#16 then .refused .indexProtocol
    else .next { s with
      gs := { s.gs with c := s.gs.c.set 0 (Vec4.splat (f24FromF32 (f32OfNat n.toNat))) }
      gp := .variablePrim vsOut (some ⟨s.mainVertexNum, n.toNat, 1⟩) }
  | .variablePrim _ (some _) => .refused .indexProtocol
  | .passthrough => .refused .indexProtocol
  | .point .. => .refused .indexProtocol
  | .fixedPrim .. => .refused .indexProtocol

/-! ### Output stages (R208, R209) -/

/-- The VS output stage after END (R208). -/
def State.vsOutputStage (s : State) : Result :=
  { s with vs := { s.vs with run := .idle } }.gpSubmitVertex (packRegs s.vs.o (s.outMask .vs))

/-- The GS output stage after END (R209): b15 of the geometry unit becomes true. -/
def State.gsOutputStage (s : State) : Result :=
  .next ({ s with gs := { s.gs with run := .idle } }.hregWrite (regBuni .gs)
    (s.hregRead (regBuni .gs) ||| 0x8000#32))

end Sys2Proof.Machine
end

