-- ==== Sys2Proof/Machine/HostPort.lean ====
section
/-! DEFINITION. The host port (46_host_port.md R240 to R261): command lists, masked register writes, loads
into the shader units, draws, immediate mode, the interrupt output; and the part of a step that is not a
shader instruction. -/

namespace Sys2Proof.Machine

/-! ### Loads (R248 to R252) -/

/-- Store a program word of unit `u` (R249). -/
def State.putProg (s : State) (u : UnitId) (a : Nat) (w : Word) : State :=
  s.setUnit u { s.unit u with prog := storeWrite (s.unit u).prog a w }

/-- Store an operand descriptor of unit `u` (R250). -/
def State.putSwz (s : State) (u : UnitId) (a : Nat) (w : Word) : State :=
  s.setUnit u { s.unit u with swz := storeWrite (s.unit u).swz a w }

/-- Store a float uniform of unit `u` (R251). -/
def State.putUniform (s : State) (u : UnitId) (i : Nat) (t : Vec4) : State :=
  s.setUnit u { s.unit u with c := (s.unit u).c.setIfInBounds i t }

/-- A store into unit `u` is also made in the geometry unit when `u` is the vertex unit and the units
share (R255). -/
def State.mirrored (s : State) (u : UnitId) (put : UnitId → State → State) : State :=
  if u = .vs ∧ s.gsShared then put .gs (put .vs s) else put u s

/-- A write of merged value `d` to a program data register (R249). -/
def State.loadProg (s : State) (u : UnitId) (d : Word) : State :=
  let off := s.hregRead (regProgOffset u)
  if progInRange u off.toNat then
    (s.mirrored u (fun t x => x.putProg t off.toNat d)).hregWrite (regProgOffset u) (off + 1#32)
  else s.raise (.badStreamOffset u .prog off.toNat)

/-- A write of merged value `d` to a descriptor data register (R250). -/
def State.loadSwz (s : State) (u : UnitId) (d : Word) : State :=
  let off := s.hregRead (regSwzOffset u)
  if off.toNat < Config.swzWords then
    (s.mirrored u (fun t x => x.putSwz t off.toNat d)).hregWrite (regSwzOffset u) (off + 1#32)
  else s.raise (.badStreamOffset u .swz off.toNat)

/-- Three words as four raw f24 encodings, w first, most significant first, bit for bit (R251); the ALU classifies
them when they are read (R91). Assumption 13. -/
def unpackRaw (w0 w1 w2 : Word) : Vec4 where
  x := field w2 0 24
  y := field w1 0 16 ++ field w2 24 8
  z := field w0 0 8 ++ field w1 16 16
  w := field w0 8 24

/-- Four words as four binary32 values, w first (R251). -/
def unpackF32 (w0 w1 w2 w3 : Word) : Vec4 where
  x := f24FromF32 w3
  y := f24FromF32 w2
  z := f24FromF32 w1
  w := f24FromF32 w0

/-- A write of merged value `d` to a float-uniform data register (R251). -/
def State.loadFuni (s : State) (u : UnitId) (d : Word) : State :=
  let x := s.unit u
  let buf := x.fuBuf.setIfInBounds x.fuN d
  let setup := s.hregRead (regFuniSetup u)
  let f32mode := flagAt setup 31
  let index := field setup 0 8
  if (if f32mode then 4 else 3) ≤ x.fuN + 1 then
    let s := s.setUnit u { x with fuBuf := buf, fuN := 0 }
    if 96 ≤ index.toNat then s.raise (.badUniformIndex u index.toNat)
    else
      let t := if f32mode then unpackF32 buf[0] buf[1] buf[2] buf[3] else unpackRaw buf[0] buf[1] buf[2]
      (s.mirrored u (fun v y => y.putUniform v index.toNat t)).hregWrite (regFuniSetup u)
        (field setup 8 24 ++ (index + 1#8))
  else s.setUnit u { x with fuBuf := buf, fuN := x.fuN + 1 }

/-- The mirror of a write to an integer or boolean uniform register of the vertex unit (R252, R255): the
merged value is copied to the geometry unit's register, which is its uniform. -/
def State.mirrorUniform (s : State) (u : UnitId) (gsReg : Nat) (d : Word) : State :=
  if u = .vs ∧ s.gsShared then s.hregWrite gsReg d else s

/-! ### Draws and immediate mode (R257 to R260) -/

/-- The values of raw encodings (R94): each encoding itself, but the canonical zero where its exponent is 0. -/
def loadedValue (raw : Vec4) : Vec4 := raw.map f24FromRaw

/-- The values of a buffer of 16 attributes (R94). -/
def loadedFile (a : Vector Vec4 16) : Vector Vec4 16 := Vector.ofFn (fun i => loadedValue a[i])

/-- One vertex of a supply as the block receives it (R258): each attribute pattern arrives as the value that
`F24FromRaw` makes of it (R94), so a canonical one (R92). -/
def LoaderVertex.received (x : LoaderVertex) : LoaderVertex := { x with attrs := loadedFile x.attrs }

/-- The vertices of a free supply: any number of them, with any indices and any attributes (assumption 22). -/
def freeSupply (n : Nat) : List LoaderVertex := (Config.drawSupply n).map fun p => ⟨p.1, p.2⟩

/-- What the vertex loader supplies for the next draw, and what it will supply for the draws after that: the
first entry of the input `loader`, or a free supply where none is named (R257, R258, assumption 22), each vertex as
the block receives it. -/
def State.takeSupply (s : State) : List LoaderVertex × List (List LoaderVertex) :=
  ((s.loader.headD (freeSupply s.fresh)).map LoaderVertex.received, s.loader.tail)

/-- The start of a draw (R257): Reconfigure, then the loader's vertices wait in `draw`. -/
def State.startDraw (s : State) (indexed : Bool) : Result :=
  seqR s.reconfigure fun t =>
    if t.gp.needIndex && !indexed then .refused .indexProtocol
    else .next { t with loader := t.takeSupply.2, draw := some ⟨indexed, t.takeSupply.1⟩ }

/-- The next vertex of the draw in progress (R257, R259), or its end. -/
def State.drawNext (s : State) (d : DrawWalk) : Result :=
  match d.items with
  | [] => .next { s with draw := none }
  | item :: rest =>
    let s' := { s with draw := some { d with items := rest } }
    if d.indexed && s.gp.needIndex then s'.gpSubmitIndex item.index
    else .next (s'.startVs item.attrs)

/-- A completed immediate-mode attribute (R260): append it, and run the vertex when it is complete. -/
def State.immediateAttr (s : State) (t : Vec4) : Result :=
  let buf := s.immBuf.setIfInBounds s.immN t
  if s.numIn .vs ≤ s.immN + 1 then
    let s := { s with immBuf := buf, immN := 0 }
    seqR (if s.immFirst then { s with immFirst := false }.reconfigure else .next s) fun x =>
      if x.gp.needIndex then .refused .indexProtocol else .next (x.startVs buf)
  else .next { s with immBuf := buf, immN := s.immN + 1 }

/-- A write of merged value `d` to `REG_DEFATTR_DATA` (R260): the third word completes a vec4. -/
def State.loadDefattr (s : State) (d : Word) : Result :=
  let buf := s.daBuf.setIfInBounds s.daN d
  if 3 ≤ s.daN + 1 then
    let s := { s with daBuf := buf, daN := 0 }
    let t := unpackRaw buf[0] buf[1] buf[2]
    let w := s.hregRead regDefattrIndex
    let index := field w 0 4
    if h : index.toNat < 12 then
      .next ({ s with defaultAttrs := s.defaultAttrs.set index.toNat t h }.hregWrite regDefattrIndex
        (field w 4 28 ++ (index + 1#4)))
    else if index = 0xF#4 then s.immediateAttr t
    else .next (s.raise (.badDefaultAttrIndex index.toNat))
  else .next { s with daBuf := buf, daN := s.daN + 1 }

/-! ### Sub-lists (R254) -/

/-- A write to `REG_SUBLIST_TRIGGER[n]` (R254): the cursor jumps to the new list, whose address and size
are in units of 8 bytes. Extra words of the same logical write would be read from the new list, which the
spec leaves unspecified (U13). The byte address is not cut to any width (DESIGN CHOICE, assumption 39). -/
def State.triggerSublist (s : State) (n : Fin 2) : Result :=
  let walk : CmdWalk :=
    { head := (s.hregRead (regSublistAddr n)).toNat * 8
      len := (s.hregRead (regSublistSize n)).toNat * 2
      cur := 0
      burst := none }
  match s.cl with
  | some c => if c.burst.isSome then .refused .sublistNotLast else .next { s with cl := some walk }
  | none => .next { s with cl := some walk }

/-! ### Register writes (R244 to R246) -/

/-- `Expand(mask)` (R245): mask bit `k` is byte lane `k`. -/
def expandMask (mask : BitVec 4) : Word :=
  (if mask.getLsbD 3 then 0xFF000000#32 else 0#32) ||| (if mask.getLsbD 2 then 0x00FF0000#32 else 0#32) |||
    (if mask.getLsbD 1 then 0x0000FF00#32 else 0#32) ||| (if mask.getLsbD 0 then 0x000000FF#32 else 0#32)

/-- The masked merge of R245. -/
def mergeMasked (old value : Word) (mask : BitVec 4) : Word :=
  (old &&& ~~~expandMask mask) ||| (value &&& expandMask mask)

/-- The side effect of a write that left the merged value `d` in the register (R246, R247). -/
def State.sideEffect (s : State) (r : HostReg) (d : Word) : Result :=
  match r with
  | .plain => .next s
  | .progData u => .next (s.loadProg u d)
  | .swzData u => .next (s.loadSwz u d)
  | .funiData u => .next (s.loadFuni u d)
  | .intUniform u n => .next (s.mirrorUniform u (regIuni .gs n) d)
  | .boolUniform u => .next (s.mirrorUniform u (regBuni .gs) d)
  | .topology => .next { s with pa := s.pa.reset }
  | .restart => .next { s with pa := s.pa.reset }
  | .draw => s.startDraw false
  | .drawIndexed => s.startDraw true
  | .defattrIndex => .next (if field d 0 4 = 0xF#4 then { s with immN := 0, immFirst := true } else s)
  | .defattrData => s.loadDefattr d
  | .irq => .next { s with irq := s.irq ++ [.p3d] }
  | .sublistTrigger n => s.triggerSublist n

/-- `WriteReg(id, value, mask)` (R246): range check, masked store, side effect of the merged value. -/
def State.writeReg (s : State) (id : Nat) (value : Word) (mask : BitVec 4) : Result :=
  if regInRange id then
    let d := mergeMasked (s.hregRead id) value mask
    (s.hregWrite id d).sideEffect (hostReg id) d
  else .next (s.raise (.badRegisterId id))

/-! ### Command lists (R240 to R243) -/

/-- Run `f` on the word of guest memory at `a`; an unmapped address has no behaviour (U10). -/
def State.withGuestWord (s : State) (a : Nat) (f : Word → Result) : Result :=
  match memReadWord s.guest a with
  | some w => f w
  | none => .refused (.guestUnmapped a)

/-- The extra words a header announces (R240). -/
def headerBurst (h : Word) : Option Burst :=
  let extra := (field h 20 8).toNat
  if extra = 0 then none
  else some ⟨(field h 0 16).toNat, field h 16 4, flagAt h 31, 1, extra⟩

/-- The first write of a logical command at word `cur` (R240): value first, header second. -/
def State.firstWrite (s : State) (c : CmdWalk) (cur : Nat) : Result :=
  s.withGuestWord (c.head + 4 * cur) fun value =>
    s.withGuestWord (c.head + 4 * (cur + 1)) fun header =>
      { s with cl := some { c with cur := cur + 2, burst := headerBurst header } }.writeReg
        (field header 0 16).toNat value (field header 16 4)

/-- `CL.cur <- CL.cur + 1` (R240), on whatever list the walk is in by then. -/
def State.cursorNext (s : State) : State := { s with cl := s.cl.map (fun c => { c with cur := c.cur + 1 }) }

/-- What is left of a run of extra words after the next one (R240). -/
def Burst.rest (b : Burst) : Option Burst :=
  if b.left ≤ 1 then none else some { b with next := b.next + 1, left := b.left - 1 }

/-- The next extra word of a logical command (R240). The cursor moves after the write and its side effect, so
behind a sub-list trigger, which has set it to 0 (R254), it is 1. -/
def State.extraWrite (s : State) (c : CmdWalk) (b : Burst) : Result :=
  if c.cur < c.len then
    s.withGuestWord (c.head + 4 * c.cur) fun value =>
      seqR ({ s with cl := some { c with burst := b.rest } }.writeReg
        (if b.group then b.id + b.next else b.id) value b.mask) fun t => .next t.cursorNext
  else .refused .listTruncated

/-- The next register write of the list in progress, or its end (R240, R243). -/
def State.listNext (s : State) (c : CmdWalk) : Result :=
  match c.burst with
  | some b => s.extraWrite c b
  | none =>
    if c.cur < c.len then s.firstWrite c (c.cur + c.cur % 2)
    else .next { s with cl := none }

/-- `ProcessCmdList(address, size)` begins (R240); R243 requires multiples of 8. -/
def State.startList (s : State) (address size : Nat) : Result :=
  if address % 8 = 0 ∧ size % 8 = 0 then .next { s with cl := some ⟨address, size / 4, 0, none⟩ }
  else .refused .listMisaligned

/-! ### The step when no instruction runs (R207, R225, R236, R241) -/

/-- What the block does when no unit is running: a pending output stage, then the FIFO, then the draw,
then the command list, then the host's next call; with nothing to do it stays as it is. -/
def State.blockStep (s : State) : Result :=
  if s.gs.run = .halted then s.gsOutputStage
  else if s.vs.run = .halted then s.vsOutputStage
  else
    match s.vout, s.draw, s.cl, s.hostCalls with
    | e :: rest, _, _, _ => .next ({ s with vout := rest }.paConsume e)
    | [], some d, _, _ => s.drawNext d
    | [], none, some c, _ => s.listNext c
    | [], none, none, (address, size) :: rest => { s with hostCalls := rest }.startList address size
    | [], none, none, [] => .next s

/-! ### Placing an instruction where the next step fetches it -/

/-- Store `w` where unit `u` fetches next (R170), its frame check included; a unit whose next fetch would
be out of range is put at address 0 with an empty call stack. -/
def State.placeAt (s : State) (u : UnitId) (w : Word) : State :=
  let x := s.unit u
  if progInRange u (frameCheck x).pc then s.putProg u (frameCheck x).pc w
  else (s.setUnit u { x with pc := 0, stk := [] }).putProg u 0 w

/-- Store `w` for the unit that will execute next: a running one, else the geometry unit, which is set
running because it can run every instruction (assumption 2). -/
def State.placeWord (s : State) (w : Word) : State :=
  if s.gs.run = .running then s.placeAt .gs w
  else if s.gs.run = .idle ∧ s.vs.run = .running then s.placeAt .vs w
  else (s.setUnit .gs { s.gs with run := .running }).placeAt .gs w

end Sys2Proof.Machine
end

