-- ==== Sys2Proof/Machine/Step.lean ====
section
/-! DEFINITION. One step of the block (43_flow_control.md R170, 45_geometry_pipeline.md R207): an instruction
of the running unit, or else the next thing the rest of the block does. -/

namespace Sys2Proof.Machine

/-- `Step()` of the executing unit (R170): frame check, fetch, execute. -/
def runUnit (s : State) : Result :=
  match s.frameChecked.fetch with
  | some w => exec (decodeWord w) s.frameChecked
  | none => .fault (.fetchOutOfRange s.frameChecked.cur s.frameChecked.curUnit.pc)

/-- One step of the block. The geometry unit runs inside the vertex unit's output stage (R207), so it goes
first. -/
def step (s : State) : Host.Outcome State Fault Refusal :=
  if s.gs.run = .running then runUnit s
  else if s.gs.run = .halted then s.blockStep
  else if s.vs.run = .running then runUnit s
  else s.blockStep

/-- The state with the instruction whose bits are `w`, `nbits` of them given and the rest 0, stored where
`step` fetches its next instruction (assumption 2). -/
def State.withFetchWord (s : State) (nbits w : Nat) : State :=
  s.placeWord (BitVec.ofNat 32 (w % 2 ^ nbits))

end Sys2Proof.Machine
end

