-- ==== Sys2Proof/Safety.lean ====
section
/-! DEFINITION. What a legal state is, in the terms the claims use: canonical stores, the stack bound, the
run-to-completion rule that only one unit runs, and the ranges of the counters and of the geometry
pipeline's fields; and what it is for all values in a state to be canonical. Every part is a rule of the spec about the machine or a convention of the stores. -/

namespace Sys2Proof.Machine

/-- A canonical value (R92): a Zero has mantissa 0. -/
abbrev Canonical (a : F24) : Prop := expF a = 0 → manF a = 0

/-- Every component is canonical (R92). -/
abbrev CanonicalVec (v : Vec4) : Prop := Canonical v.x ∧ Canonical v.y ∧ Canonical v.z ∧ Canonical v.w

/-- Every register of a file is canonical (R92). -/
abbrev CanonicalFile {n : Nat} (f : Vector Vec4 n) : Prop := ∀ i : Fin n, CanonicalVec f[i]

/-- Every attribute of a shaded vertex is canonical (R92). -/
abbrev CanonicalVertex (a : Vertex) : Prop := ∀ v ∈ a, CanonicalVec v

/-- The program memory and the descriptor table of a unit are canonical and hold nothing outside their
sizes (R10, R11, R249, R250); the call stack holds at most 16 frames (R20); the float-uniform assembly
buffer is never full between two words (R251). -/
structure UnitLegal (u : UnitId) (x : ShaderUnit) : Prop where
  prog_rising : StoreRising x.prog
  prog_inRange : ∀ p ∈ x.prog, progInRange u p.1 = true
  swz_rising : StoreRising x.swz
  swz_inRange : ∀ p ∈ x.swz, p.1 < Config.swzWords
  stack_bounded : x.stk.length ≤ Config.callStackDepth
  assembly_bounded : x.fuN < 4

/-- A backend's fields are as the configurations R212, R217 and R220 allow and the submissions R213, R217
and R221 leave them. -/
def BackendLegal : Backend → Prop
  | .passthrough => True
  | .point vsOut inNum _ cur => 0 < vsOut ∧ inNum ≤ 16 ∧ inNum % vsOut = 0 ∧ cur % vsOut = 0 ∧ cur < inNum
  | .variablePrim vsOut left => 0 < vsOut ∧ ∀ p, left = some p → 0 < p.totalLeft
  | .fixedPrim vsOut first last cur =>
    0 < vsOut ∧ last ≤ 96 ∧ first ≤ cur ∧ cur < last ∧ (last - first) % vsOut = 0 ∧ (cur - first) % vsOut = 0

/-- The invariant of the block. -/
structure State.Legal (s : State) : Prop where
  vs_legal : UnitLegal .vs s.vs
  gs_legal : UnitLegal .gs s.gs
  one_unit : s.vs.run = .idle ∨ s.gs.run = .idle
  backend_legal : BackendLegal s.gp
  assembler_bounded : s.pa.idx ≤ 2
  hreg_canonical : HregCanonical s.hreg
  guest_canonical : Memory.wf s.guest
  defattr_bounded : s.daN < 3
  immediate_bounded : s.immN < 16
  burst_nonempty : ∀ c b, s.cl = some c → c.burst = some b → 0 < b.left

/-- The four register files of a unit hold canonical values only (R92). -/
structure UnitCanonical (x : ShaderUnit) : Prop where
  temporaries : CanonicalFile x.r
  outputs : CanonicalFile x.o
  inputs : CanonicalFile x.v
  uniforms : CanonicalFile x.c

/-- No value that is not canonical (R92) is in a register, in the pipeline behind the units, in the
immediate-mode buffer or in what a draw has received from the vertex loader (R258), or has left the block. The host
port can break this, and nothing else can: a raw load stores an encoding as it is (R251, R260, assumption 13). -/
structure State.AllCanonical (s : State) : Prop where
  vs_canonical : UnitCanonical s.vs
  gs_canonical : UnitCanonical s.gs
  point_canonical : ∀ vsOut inNum buf cur, s.gp = .point vsOut inNum buf cur → CanonicalFile buf
  emitter_canonical : ∀ (j : Fin 3) (n : Fin 16), CanonicalVec s.em.buf[j][n]
  fifo_canonical : ∀ a, VoutEntry.vertex a ∈ s.vout → CanonicalVertex a
  assembler_canonical : CanonicalVertex s.pa.buf0 ∧ CanonicalVertex s.pa.buf1
  triangles_canonical : ∀ t ∈ s.tri, CanonicalVertex t.v0 ∧ CanonicalVertex t.v1 ∧ CanonicalVertex t.v2
  immediate_canonical : CanonicalFile s.immBuf
  draw_canonical : ∀ d, s.draw = some d → ∀ item ∈ d.items, CanonicalFile item.attrs

/-- A unit is running an instruction stream (R21, R170). -/
def State.active (s : State) : Prop := s.gs.run = .running ∨ s.vs.run = .running

/-- A run is safe for `n` steps from `s`: it neither faults nor meets an input the spec gives no
behaviour. -/
def SafeRun (n : Nat) (s : State) : Prop := ∃ t, Host.Core.run Sys2Proof.core n s = .next t

end Sys2Proof.Machine
end

