-- ==== Sys2Proof/Certificates/Slice0/Obligations.lean ====
section
/-! DEFINITION. The statements for the provers, and the vocabulary they are written in. The vocabulary
restates the rules of the spec componentwise, or over the reals, apart from the model's own definitions,
so that a statement compares two readings of a rule. -/

namespace Sys2Proof.Claims

open Sys2Proof.Machine

/-! ### Vocabulary: registers and operands -/

/-- Component `k` of a register (R7): 0 is x, 3 is w. -/
def comp (v : Vec4) (k : Fin 4) : F24 :=
  match k with
  | 0 => v.x
  | 1 => v.y
  | 2 => v.z
  | 3 => v.w

/-- The register a destination field names (R67). -/
def destReg (x : ShaderUnit) : Dest → Vec4
  | .o n => x.o[n]
  | .r n => x.r[n]

/-- The component number descriptor `d` selects for result component `k` of source `i` (R70, R71). -/
def selected (d : Word) (i : Fin 3) (k : Fin 4) : Fin 4 :=
  Fin.ofNat 4 (d.toNat / 2 ^ (5 + 9 * i.val + (6 - 2 * k.val)))

/-- Component `k` of operand `i` made of the register value `v` (R132): selector first, then the negation,
which flips the sign bit. -/
def operand (d : Word) (i : Fin 3) (v : Vec4) (k : Fin 4) : F24 :=
  if d.getLsbD (4 + 9 * i.val) then comp v (selected d i k) ^^^ 0x800000#24 else comp v (selected d i k)

/-- The write mask enables component `k` (R70, R133): mask bit 3 is x. -/
def enabled (d : Word) (k : Fin 4) : Bool := d.getLsbD (3 - k.val)

/-- The condition function (R173). -/
def CondHolds (x : ShaderUnit) (refx refy : Bool) : CondOp → Prop
  | .or => x.ccx = refx ∨ x.ccy = refy
  | .and => x.ccx = refx ∧ x.ccy = refy
  | .justX => x.ccx = refx
  | .justY => x.ccy = refy

/-! ### Vocabulary: what an instruction leaves -/

/-- `t` is `s` but for the executing unit of `s`, which is `x`, and for the anomalies `l` added to the log;
every byte of guest memory reads as before. -/
structure Leaves (s t : State) (x : ShaderUnit) (l : List Anomaly) : Prop where
  state : t = { s.setUnit s.cur x with log := s.log ++ l }
  memory : ∀ a, memReadByte t.guest a = memReadByte s.guest a

/-- The result is a next state that leaves the executing unit as `x` and adds `l` to the log. -/
def Completes (r : Result) (s : State) (x : ShaderUnit) (l : List Anomaly) : Prop :=
  ∃ t, r = .next t ∧ Leaves s t x l

/-- What an arithmetic instruction leaves (R130, R133): the enabled components of its destination are
`val`, every other component of every general register is as before, the pc is one further, and nothing
else has changed: no address register, no conditional code, no stack frame, no uniform, no program word, no
other unit, no host register, no byte of memory. -/
structure WritesDest (s t : State) (dest : Dest) (d : Word) (val : Fin 4 → F24) : Prop where
  written : ∀ k, comp (destReg (t.unit s.cur) dest) k =
    if enabled d k then val k else comp (destReg s.curUnit dest) k
  otherRegisters : ∀ e, e ≠ dest → destReg (t.unit s.cur) e = destReg s.curUnit e
  pc : (t.unit s.cur).pc = s.curUnit.pc + 1
  restOfUnit : t.unit s.cur =
    { s.curUnit with o := (t.unit s.cur).o, r := (t.unit s.cur).r, pc := (t.unit s.cur).pc }
  restOfState : t = s.setUnit s.cur (t.unit s.cur)
  memory : ∀ a, memReadByte t.guest a = memReadByte s.guest a

/-- A format 1 instruction (R61) completes on all operands and writes `f` of its operands. -/
def Result1 (mk : Dest → AddrIdx → WideSrc → NarrowSrc → BitVec 7 → Instr)
    (f : (Fin 4 → F24) → (Fin 4 → F24) → Fin 4 → F24) : Prop :=
  ∀ dest idx src1 src2 desc s, ∃ t, exec (mk dest idx src1 src2 desc) s = .next t ∧
    WritesDest s t dest (s.descriptor desc.toNat)
      (f (operand (s.descriptor desc.toNat) 0 (readWide s.curUnit idx src1))
        (operand (s.descriptor desc.toNat) 1 (readNarrow s.curUnit src2)))

/-- A format 1i instruction (R62) completes on all operands and writes `f` of its operands. -/
def Result1i (mk : Dest → AddrIdx → NarrowSrc → WideSrc → BitVec 7 → Instr)
    (f : (Fin 4 → F24) → (Fin 4 → F24) → Fin 4 → F24) : Prop :=
  ∀ dest idx src1 src2 desc s, ∃ t, exec (mk dest idx src1 src2 desc) s = .next t ∧
    WritesDest s t dest (s.descriptor desc.toNat)
      (f (operand (s.descriptor desc.toNat) 0 (readNarrow s.curUnit src1))
        (operand (s.descriptor desc.toNat) 1 (readWide s.curUnit idx src2)))

/-- A format 1u instruction (R63) completes on all operands and writes `f` of its operand. -/
def Result1u (mk : Dest → AddrIdx → WideSrc → BitVec 7 → Instr) (f : (Fin 4 → F24) → Fin 4 → F24) : Prop :=
  ∀ dest idx src1 desc s, ∃ t, exec (mk dest idx src1 desc) s = .next t ∧
    WritesDest s t dest (s.descriptor desc.toNat)
      (f (operand (s.descriptor desc.toNat) 0 (readWide s.curUnit idx src1)))

/-- `fset` (R119), in raw bits. -/
def oneOrZero (p : Bool) : F24 := if p then 0x3F0000#24 else 0x000000#24

/-- The call stack has room for a frame (R172). -/
abbrev HasRoom (s : State) : Prop := s.curUnit.stk.length < 16

/-! ### Vocabulary: real values -/

/-- `val(a)` of a Zero or Fin operand (R91); 0 on the two other classes, where it is not used. -/
noncomputable def valR (a : F24) : ℝ :=
  match classF a with
  | .fin s e m => (if s then -1 else 1) * (1 + (m : ℝ) / 65536) * (2 : ℝ) ^ ((e : ℤ) - 63)
  | _ => 0

/-- The place of a value that is not a NaN among the extended reals (R98). -/
noncomputable def extR (a : F24) : EReal :=
  match classF a with
  | .inf s => if s then ⊥ else ⊤
  | _ => (valR a : EReal)

/-- The class is Zero or Fin (R91). -/
def isFinite (a : F24) : Prop := (∃ s, classF a = .zero s) ∨ ∃ s e m, classF a = .fin s e m

/-- A positive real of the form `k 2^q`, `2^23 ≤ k < 2^24` (R96). -/
def Representable24 (r : ℝ) : Prop := ∃ (k : ℕ) (q : ℤ), 2 ^ 23 ≤ k ∧ k < 2 ^ 24 ∧ r = (k : ℝ) * (2 : ℝ) ^ q

/-- `r` is `Round24(v)` for a positive `v` (R96): the nearest representable real, ties to even `k`. -/
def IsRound24 (v r : ℝ) : Prop :=
  Representable24 r ∧ (∀ g, Representable24 g → |v - r| ≤ |v - g|) ∧
    ((∃ g, Representable24 g ∧ g ≠ r ∧ |v - g| = |v - r|) →
      ∃ (k : ℕ) (q : ℤ), Even k ∧ 2 ^ 23 ≤ k ∧ k < 2 ^ 24 ∧ r = (k : ℝ) * (2 : ℝ) ^ q)

/-- `x` is `Res(v, sz)` (R96). The last clause is the floor of R96: the mantissa is the largest that does
not exceed the rounded magnitude. -/
def IsRes (v : ℝ) (sz : Bool) (x : F24) : Prop :=
  (v = 0 → x = zeroF sz) ∧
    (v ≠ 0 → ∃ (s : Bool) (r : ℝ), (s = true ↔ v < 0) ∧ IsRound24 |v| r ∧
      (r < (2 : ℝ) ^ (-62 : ℤ) → x = zeroF s) ∧
      ((2 : ℝ) ^ (64 : ℤ) ≤ r → x = infF s) ∧
      ((2 : ℝ) ^ (-62 : ℤ) ≤ r → r < (2 : ℝ) ^ (64 : ℤ) → ∃ e m : ℕ, classF x = .fin s e m ∧
        (1 + (m : ℝ) / 65536) * (2 : ℝ) ^ ((e : ℤ) - 63) ≤ r ∧
        r < (1 + ((m : ℝ) + 1) / 65536) * (2 : ℝ) ^ ((e : ℤ) - 63)))

/-- The value of a raw pattern (R91, R94): with exponent field 0 the zero of its sign, else the pattern itself. -/
def patternValue (r : F24) : F24 := if r.extractLsb' 16 7 = 0 then r &&& 0x800000#24 else r

/-! ### Vocabulary: encoding -/

/-- The bits of a word that its format does not mark ignored or unused, by opcode (R61 to R65, R73 to R76,
R80). -/
def usedBits (op : BitVec 6) : Word :=
  if op = 0x05#6 ∨ op = 0x06#6 ∨ op = 0x07#6 ∨ op = 0x0B#6 ∨ op = 0x0E#6 ∨ op = 0x0F#6 ∨ op = 0x13#6 then 0xFFFFF07F#32
  else if op = 0x12#6 then 0xFC1FF07F#32
  else if op = 0x23#6 ∨ op = 0x25#6 ∨ op = 0x26#6 ∨ op = 0x27#6 ∨ op = 0x28#6 then 0xFFFFFCFF#32
  else if op = 0x24#6 then 0xFC3FFCFF#32
  else if op = 0x29#6 then 0xFCFFFC00#32
  else if op = 0x2B#6 then 0xFFC00000#32
  else if op = 0x2C#6 then 0xFFFFFC00#32
  else if op = 0x2D#6 then 0xFFFFFC01#32
  else if op = 0x20#6 ∨ op = 0x21#6 ∨ op = 0x22#6 ∨ op = 0x2A#6 ∨ op = 0x10#6 ∨ op = 0x11#6 ∨ op = 0x14#6 ∨ op = 0x15#6
      ∨ op = 0x16#6 ∨ op = 0x17#6 ∨ op = 0x1C#6 ∨ op = 0x1D#6 ∨ op = 0x1E#6 ∨ op = 0x1F#6 then 0xFC000000#32
  else 0xFFFFFFFF#32

/-! ### Vocabulary: streams and stores -/

/-- The reaction of the assembler to a list of FIFO entries, in order (R225, R228). -/
def consumeAll (s : State) (es : List VoutEntry) : State := es.foldl State.paConsume s

/-- The triangles of a fan (R231): first vertex, previous vertex, new vertex. -/
def fanTriangles (v0 : Vertex) : List Vertex → List Triangle
  | a :: b :: rest => ⟨v0, a, b⟩ :: fanTriangles v0 (b :: rest)
  | _ => []

/-- The triangles of a strip (R230), `a` and `b` the vertices in slots 0 and 1 and the next one going to
slot 0 when `even`. -/
def stripTriangles (even : Bool) (a b : Vertex) : List Vertex → List Triangle
  | c :: rest => ⟨a, b, c⟩ :: (if even then stripTriangles false c b rest else stripTriangles true a c rest)
  | [] => []

/-- The triangles of a strip of any length (R230): none before the third vertex. -/
def stripOf : List Vertex → List Triangle
  | a :: b :: rest => stripTriangles true a b rest
  | _ => []

/-- The triangles of a fan of any length (R231). -/
def fanOf : List Vertex → List Triangle
  | a :: rest => fanTriangles a rest
  | [] => []

/-- The triangles of a list (R229): every three vertices. -/
def listTriangles : List Vertex → List Triangle
  | a :: b :: c :: rest => ⟨a, b, c⟩ :: listTriangles rest
  | _ => []

/-- What a run of a LOOP body that reaches its end does to the unit (R171, R183): `pc` has arrived at
`endAddr`, and the frame check fires. -/
def bodyEnds (endAddr : Nat) (x : ShaderUnit) : ShaderUnit := frameCheck { x with pc := endAddr }

/-- The host registers other than `id` read as before. -/
def OtherRegsSame (s t : State) (id : Nat) : Prop := ∀ k, k ≠ id → t.hregRead k = s.hregRead k

/-- `m` is `old` with the byte lanes that `mask` enables taken from `value` (R245). -/
def IsMerged (old value : Word) (mask : BitVec 4) (m : Word) : Prop :=
  ∀ k : Fin 4, m.extractLsb' (8 * k.val) 8 =
    if mask.getLsbD k.val then value.extractLsb' (8 * k.val) 8 else old.extractLsb' (8 * k.val) 8

/-- The four raw f24 encodings in three words, bit for bit (R251): 96 bits, the first word most significant,
w first. -/
def IsUnpacked (w0 w1 w2 : Word) (t : Vec4) : Prop :=
  ∀ k : Fin 4, (comp t k).toNat = (w0.toNat * 2 ^ 64 + w1.toNat * 2 ^ 32 + w2.toNat) / 2 ^ (24 * k.val) % 2 ^ 24

/-- `v` holds the values of the encodings `t` (R91, R94). -/
def IsValueOf (t v : Vec4) : Prop := ∀ k : Fin 4, comp v k = patternValue (comp t k)

/-- `y` is what the block receives of the vertex `x` of the loader (R258): the index, and the values of the attribute
patterns (R94). -/
def IsReceived (x y : LoaderVertex) : Prop := y.index = x.index ∧ ∀ i : Fin 16, IsValueOf x.attrs[i] y.attrs[i]

/-- The next step serves a command list, by this register write (R240, R243): the first word of a logical command, or
an extra word (addresses as in assumption 39). -/
def ListWrites (s : State) (id : Nat) (value : Word) (mask : BitVec 4) : Prop :=
  s.vs.run = .idle ∧ s.gs.run = .idle ∧ s.vout = [] ∧ s.draw = none ∧ ∃ c, s.cl = some c ∧ c.cur < c.len ∧
    ((∃ b, c.burst = some b ∧ memReadWord s.guest (c.head + 4 * c.cur) = some value ∧
        id = (if b.group then b.id + b.next else b.id) ∧ mask = b.mask) ∨
      ∃ header : Word, c.burst = none ∧ memReadWord s.guest (c.head + 4 * (c.cur + c.cur % 2)) = some value ∧
        memReadWord s.guest (c.head + 4 * (c.cur + c.cur % 2) + 4) = some header ∧
        id = header.toNat % 65536 ∧ mask = header.extractLsb' 16 4)

/-- This register write completes a load of the four raw patterns `x`: of a float uniform in the raw form, at an index
below 96 (R251), or of immediate-mode data (R260). -/
def LoadsRaw (s : State) (id : Nat) (value : Word) (mask : BitVec 4) (x : Vec4) : Prop :=
  ∃ (d : Word) (b : Fin 3 → Word), IsMerged (s.hregRead id) value mask d ∧ IsUnpacked (b 0) (b 1) (b 2) x ∧
    ((∃ (u : UnitId) (k : Fin 8), id = regFuniData u + k.val ∧ (s.hregRead (regFuniSetup u)).getLsbD 31 = false ∧
        (s.hregRead (regFuniSetup u)).toNat % 256 < 96 ∧ 2 ≤ (s.unit u).fuN ∧
        ∀ i : Fin 3, b i = if i.val = (s.unit u).fuN then d else (s.unit u).fuBuf[i]) ∨
      ∃ k : Fin 3, id = regDefattrData + k.val ∧ (s.hregRead regDefattrIndex).toNat % 16 = 15 ∧ s.daN = 2 ∧
        ∀ i : Fin 3, b i = if i.val = s.daN then d else s.daBuf[i])

/-- The four raw patterns that the next step loads into a float uniform or into the immediate-mode buffer, if it loads
any, are canonical: none of them has exponent 0 and a mantissa. -/
def RawLoadCanonical (s : State) : Prop :=
  ∀ (id : Nat) (value : Word) (mask : BitVec 4) (x : Vec4),
    ListWrites s id value mask → LoadsRaw s id value mask x → CanonicalVec x

/-- `attrAt` gives the attributes that the vertex has; beyond them it is a free value (R208, assumption 20). -/
def TakesAttributes (s : State) (A : Vertex) : Prop := ∀ (i : Nat) (h : i < A.length), attrAt s.fresh A i = A[i]

end Sys2Proof.Claims

section Claims

open Sys2Proof Sys2Proof.Machine Sys2Proof.Claims

/-! ### Encoding -/

/-- Decoding the word of a well-formed instruction gives the instruction back, whatever bytes follow (R60
to R78). -/
def Obligations.DecodeEncodeAgree : Prop :=
  ∀ (i : Instr) (rest : List Byte), i.wellFormed = true → decode (wordBytes (encodeWord i) ++ rest) = .ok (i, rest)

/-- A bit that a format marks ignored or unused has no effect on what a word decodes to (R80). -/
def Obligations.IgnoredBitsHaveNoEffect : Prop :=
  ∀ w : Word, decodeWord (w &&& usedBits (field w 26 6)) = decodeWord w

/-- Every word is an instruction, with every source field naming a register (R60, R66, R79); only a string
of fewer than four bytes is refused. -/
def Obligations.EveryWordDecodes : Prop :=
  (∀ (w : Word) (rest : List Byte), (decodeWord w).wellFormed = true ∧
    decode (wordBytes w ++ rest) = .ok (decodeWord w, rest)) ∧
  ∀ bytes : List Byte, (∃ e, decode bytes = .error e) ↔ bytes.length < 4

/-- Words the spec prints decode to the instructions it gives for them (R136, R137, R138, R166, R179, R185, R196). -/
def Obligations.SpecWordsDecode : Prop :=
  decodeWord 0x02010000#32 = .add (.r 0) .none (.r 0) (.v 0) 0 ∧
  decodeWord 0x22220900#32 = .mul (.r 1) .none (.c 0) (.r 2) 0 ∧
  decodeWord 0xF0229640#32 = .mad (.r 0) .none (.r 1) (.c 5) (.r 2) 0 ∧
  decodeWord 0xD06324A0#32 = .madi (.r 0) .a0x (.r 1) (.r 2) (.c 5) 0 ∧
  decodeWord 0xB8400800#32 = .cmp .eq .lt .none (.v 0) (.r 0) 0 ∧
  decodeWord 0x96402803#32 = .callc true false .and 10 3 ∧
  decodeWord 0xB4C05001#32 = .jmpu 3 20 true ∧
  decodeWord 0xAEC00000#32 = .setemit 2 true true

/-! ### Step, reset, invariant -/

/-- A step of a running unit executes the instruction that the fetched word's bytes decode to, on the state
after the frame check (R170). Beside that the step does nothing: the instruction itself moves the pc. A fetch out of
range is unspecified (R44, U2); that it stops is the model's choice (assumption 15). With both units idle the step is one act of the rest of the block, in this order (assumption
3): the first VOUT entry is consumed (R225); else the draw goes on (R257); else the command list (R240); else the
host's first call begins a list, whose address and size are multiples of 8 (R240, R243); another address or size is
unspecified (U13), and that it is refused is the model's choice (assumption 21); with nothing to do the machine stays
as it is. -/
def Obligations.StepRunsDecodedInstruction : Prop :=
  (∀ s : State, (s.gs.run = .running ∨ (s.gs.run = .idle ∧ s.vs.run = .running)) →
    s.frameChecked = s.setUnit s.cur (frameCheck s.curUnit) ∧
    (∀ (w : Word) (i : Instr),
      progRead s.frameChecked.cur s.frameChecked.curUnit s.frameChecked.curUnit.pc = some w →
      decode (wordBytes w) = .ok (i, []) → i.wellFormed = true → step s = exec i s.frameChecked) ∧
    (progRead s.frameChecked.cur s.frameChecked.curUnit s.frameChecked.curUnit.pc = none →
      step s = .fault (.fetchOutOfRange s.frameChecked.cur s.frameChecked.curUnit.pc))) ∧
  ∀ s : State, s.gs.run = .idle → s.vs.run = .idle →
    (∀ e rest, s.vout = e :: rest → step s = .next ({ s with vout := rest }.paConsume e)) ∧
    (s.vout = [] → ∀ d, s.draw = some d → step s = s.drawNext d) ∧
    (s.vout = [] → s.draw = none → ∀ c, s.cl = some c → step s = s.listNext c) ∧
    (s.vout = [] → s.draw = none → s.cl = none → ∀ address size rest, s.hostCalls = (address, size) :: rest →
      (address % 8 = 0 → size % 8 = 0 →
        step s = .next { s with hostCalls := rest, cl := some ⟨address, size / 4, 0, none⟩ }) ∧
      (address % 8 ≠ 0 ∨ size % 8 ≠ 0 → step s = .refused .listMisaligned)) ∧
    (s.vout = [] → s.draw = none → s.cl = none → s.hostCalls = [] → step s = .next s)

/-- The machine after reset meets the invariant, and every value in it is canonical (R92). -/
def Obligations.ResetLegal : Prop := State.reset.Legal ∧ State.reset.AllCanonical

/-- Every step keeps the invariant: canonical stores, no program word or descriptor outside its memory, at most
16 frames, never both units busy, a legal geometry backend, bounded counters. And no step brings in a value that is
not canonical (R92) anywhere in the block or in what leaves it, but a command-list write that completes a raw load of
a pattern that is not canonical: of a float uniform in the raw form (R251) or of immediate-mode data (R260), which are
stored bit for bit (assumption 13). A binary32 load and every other write keep all values canonical. That a free value
is canonical is assumption 8; the register numbers are assumption 1. -/
def Obligations.StepKeepsLegal : Prop :=
  ∀ s t : State, s.Legal → step s = .next t →
    t.Legal ∧ (s.AllCanonical → RawLoadCanonical s → t.AllCanonical)

/-- What reset leaves, for all the state to which R285 gives a value. -/
def Obligations.ResetControlState : Prop :=
  (∀ u, (State.reset.unit u).a0x = 0 ∧ (State.reset.unit u).a0y = 0 ∧ (State.reset.unit u).al = 0 ∧
    (State.reset.unit u).ccx = false ∧ (State.reset.unit u).ccy = false ∧ (State.reset.unit u).stk = [] ∧
    (State.reset.unit u).run = .idle ∧ (State.reset.unit u).fuN = 0 ∧ ∀ i, State.reset.inMap u i = i) ∧
  State.reset.em.vertexId = 0 ∧ State.reset.em.primEmit = false ∧ State.reset.em.winding = false ∧
  State.reset.gp = .passthrough ∧ State.reset.vout = [] ∧ State.reset.useGs = 0 ∧ State.reset.gsShared = true ∧
  State.reset.pa.idx = 0 ∧ State.reset.pa.stripReady = false ∧ State.reset.pa.winding = false ∧
  State.reset.immN = 0 ∧ State.reset.daN = 0 ∧ State.reset.cl = none ∧ State.reset.log = []

/-- A step never writes guest memory (R47), and the output streams and the anomaly record only grow: no
triangle, interrupt or record is ever taken back (R235, R261, R270). -/
def Obligations.StepKeepsGuestAndStreams : Prop :=
  ∀ s t : State, step s = .next t →
    t.guest = s.guest ∧ (∀ a, memReadByte t.guest a = memReadByte s.guest a) ∧
    s.tri <+: t.tri ∧ s.irq <+: t.irq ∧ s.log <+: t.log

/-! ### The call stack -/

/-- The frame check (R171), one round at a time, and that it has no further round to make when it ends. -/
def Obligations.FrameCheckRule : Prop :=
  (∀ x : ShaderUnit, x.stk = [] → frameCheck x = x) ∧
  (∀ (x : ShaderUnit) (f : Frame) (rest : List Frame), x.stk = f :: rest →
    (x.pc ≠ f.endAddr → frameCheck x = x) ∧
    (x.pc = f.endAddr → f.count = 0 → frameCheck x = frameCheck { x with
      pc := f.retAddr
      al := if f.restoreAL then f.savedAL else x.al + f.inc.setWidth 32
      stk := rest }) ∧
    (x.pc = f.endAddr → f.count ≠ 0 → frameCheck x = frameCheck { x with
      pc := f.loopStart
      al := x.al + f.inc.setWidth 32
      stk := { f with count := f.count - 1 } :: rest })) ∧
  ∀ (x : ShaderUnit) (f : Frame) (rest : List Frame), (frameCheck x).stk = f :: rest → (frameCheck x).pc ≠ f.endAddr

/-- The frame of a LOOP with a body of at least one instruction sends the unit back x times (R171, R183). The body
is abstracted: `bodyEnds` puts the pc at the body's end, with AL and the stack as the body found them, and makes the
frame check there. At the start of run `j`, `j` from 0 to x, the pc is the instruction after the LOOP and AL is
y + j z; the end of the last run pops the frame, continues after the body, and leaves AL at y + (x + 1) z, or at its
old value for a nested LOOP. What is under the LOOP's frame is taken not to end at the same address (FrameCheckRule
covers that case). -/
def Obligations.LoopBodyRunsCountPlusOneTimes : Prop :=
  ∀ (s t : State) (n : Fin 4) (target : BitVec 12),
    exec (.loop n target) s = .next t → s.curUnit.pc + 1 ≤ target.toNat →
    (∀ f ∈ s.curUnit.stk, f.endAddr ≠ target.toNat + 1) →
    (∀ j : Nat, j ≤ (intX (s.intUniform s.cur n)).toNat →
      ((bodyEnds (target.toNat + 1))^[j] (t.unit s.cur)).pc = s.curUnit.pc + 1 ∧
      ((bodyEnds (target.toNat + 1))^[j] (t.unit s.cur)).al =
        BitVec.ofNat 32 ((intY (s.intUniform s.cur n)).toNat + j * (intZ (s.intUniform s.cur n)).toNat)) ∧
    ((bodyEnds (target.toNat + 1))^[(intX (s.intUniform s.cur n)).toNat + 1] (t.unit s.cur)).pc = target.toNat + 1 ∧
    ((bodyEnds (target.toNat + 1))^[(intX (s.intUniform s.cur n)).toNat + 1] (t.unit s.cur)).stk = s.curUnit.stk ∧
    ((bodyEnds (target.toNat + 1))^[(intX (s.intUniform s.cur n)).toNat + 1] (t.unit s.cur)).al =
      if s.curUnit.stk.any (·.isLoop) then s.curUnit.al
      else BitVec.ofNat 32 ((intY (s.intUniform s.cur n)).toNat +
        ((intX (s.intUniform s.cur n)).toNat + 1) * (intZ (s.intUniform s.cur n)).toNat)

/-! ### The ALU -/

/-- `Res` (R96) of a signed ratio: round to nearest even at 24 bits, flush, overflow, truncate to 17 bits. -/
def Obligations.ResIsCorrectlyRounded : Prop :=
  ∀ (s : Bool) (n d : Nat) (sz : Bool), 0 < d →
    IsRes ((if s then -1 else 1) * ((n : ℝ) / (d : ℝ))) sz (res s n d sz)

/-- The table of `fadd` (R100). -/
def Obligations.AddTable : Prop :=
  ∀ a b : F24,
    (classF a = .nan ∨ classF b = .nan → classF (fadd a b) = .nan) ∧
    (∀ s, classF a = .inf s → classF b = .inf s → fadd a b = infF s) ∧
    (∀ s, classF a = .inf s → classF b = .inf (!s) → classF (fadd a b) = .nan) ∧
    (∀ s, classF a = .inf s → isFinite b → fadd a b = infF s) ∧
    (∀ s, isFinite a → classF b = .inf s → fadd a b = infF s) ∧
    (∀ s t, classF a = .zero s → classF b = .zero t → fadd a b = zeroF (s && t)) ∧
    (∀ s t e m, classF a = .zero s → classF b = .fin t e m → fadd a b = b) ∧
    (∀ s t e m, classF a = .fin t e m → classF b = .zero s → fadd a b = a) ∧
    (∀ s e m t f n, classF a = .fin s e m → classF b = .fin t f n → IsRes (valR a + valR b) false (fadd a b))

/-- The table of `fmul` (R104), with the sanitization 0 x inf = +0. -/
def Obligations.MulTable : Prop :=
  ∀ a b : F24,
    (classF a = .nan ∨ classF b = .nan → classF (fmul a b) = .nan) ∧
    (∀ s t, classF a = .zero s → classF b = .inf t → fmul a b = 0x000000#24) ∧
    (∀ s t, classF a = .inf s → classF b = .zero t → fmul a b = 0x000000#24) ∧
    (∀ s t, classF a = .inf s → classF b = .inf t → fmul a b = infF (s ^^ t)) ∧
    (∀ s t f n, classF a = .inf s → classF b = .fin t f n → fmul a b = infF (s ^^ t)) ∧
    (∀ s e m t, classF a = .fin s e m → classF b = .inf t → fmul a b = infF (s ^^ t)) ∧
    (∀ s t, classF a = .zero s → classF b = .zero t → fmul a b = zeroF (s ^^ t)) ∧
    (∀ s t f n, classF a = .zero s → classF b = .fin t f n → fmul a b = zeroF (s ^^ t)) ∧
    (∀ s e m t, classF a = .fin s e m → classF b = .zero t → fmul a b = zeroF (s ^^ t)) ∧
    (∀ s e m t f n, classF a = .fin s e m → classF b = .fin t f n → IsRes (valR a * valR b) (s ^^ t) (fmul a b))

/-- The table of `frcp` with the reference of its last row (R111). -/
def Obligations.RcpTable : Prop :=
  ∀ a : F24,
    (classF a = .nan → classF (frcp a) = .nan) ∧
    (∀ s, classF a = .zero s → frcp a = infF s) ∧
    (∀ s, classF a = .inf s → frcp a = zeroF s) ∧
    (∀ s e m, classF a = .fin s e m → IsRes (1 / valR a) s (frcp a))

/-- The table of `frsq` with the reference of its last row (R113): the square root is rounded first. -/
def Obligations.RsqTable : Prop :=
  ∀ a : F24,
    (classF a = .nan → classF (frsq a) = .nan) ∧
    (∀ s, classF a = .zero s → frsq a = infF s) ∧
    (∀ e m, classF a = .fin true e m → classF (frsq a) = .nan) ∧
    (classF a = .inf true → classF (frsq a) = .nan) ∧
    (classF a = .inf false → frsq a = zeroF false) ∧
    (∀ e m, classF a = .fin false e m → ∃ q, IsRound24 (Real.sqrt (valR a)) q ∧ IsRes (1 / q) false (frsq a))

/-- The rows of `fex2` and `flg2` and all that may be assumed of their open parameters (R115, R116): EX2 is
never negative and NaN only on a NaN; LG2 of a positive finite value is neither NaN nor infinite. -/
def Obligations.Ex2Lg2Rows : Prop :=
  ∀ a : F24,
    (classF a = .nan → classF (fex2 a) = .nan ∧ classF (flg2 a) = .nan) ∧
    (classF a = .inf false → fex2 a = infF false ∧ flg2 a = infF false) ∧
    (classF a = .inf true → fex2 a = zeroF false ∧ classF (flg2 a) = .nan) ∧
    (isFinite a → fex2 a = zeroF false ∨ fex2 a = infF false ∨ ∃ e m, classF (fex2 a) = .fin false e m) ∧
    (∀ s, classF a = .zero s → flg2 a = infF true) ∧
    (∀ e m, classF a = .fin true e m → classF (flg2 a) = .nan) ∧
    (∀ e m, classF a = .fin false e m → isFinite (flg2 a))

/-- `ffloor` (R109): NaN and infinities pass unchanged, a zero keeps its sign, a finite value gives the
largest integer not greater than it, exactly, and +0 where that integer is 0. -/
def Obligations.FloorRule : Prop :=
  ∀ a : F24,
    (classF a = .nan → ffloor a = a) ∧
    (∀ s, classF a = .inf s → ffloor a = a) ∧
    (∀ s, classF a = .zero s → ffloor a = zeroF s) ∧
    (∀ s e m, classF a = .fin s e m → isFinite (ffloor a) ∧ valR (ffloor a) = (⌊valR a⌋ : ℝ) ∧
      (⌊valR a⌋ = 0 → ffloor a = zeroF false))

/-- `fmax` and `fmin` (R107, R108): the second operand unless the first is strictly greater (less); so the
second on a NaN, on equal operands and on two zeros. -/
def Obligations.MaxMinRule : Prop :=
  ∀ a b : F24,
    (classF a = .nan ∨ classF b = .nan → fmax a b = b ∧ fmin a b = b) ∧
    (classF a ≠ .nan → classF b ≠ .nan →
      (extR b < extR a → fmax a b = a ∧ fmin a b = b) ∧
      (extR a < extR b → fmax a b = b ∧ fmin a b = a) ∧
      (extR a = extR b → fmax a b = b ∧ fmin a b = b))

/-- The comparisons (R98, R99): on a NaN only "not equal" holds; else they are the relations of the
extended reals, both zeros being 0. -/
def Obligations.CompareRule : Prop :=
  ∀ a b : F24,
    (classF a = .nan ∨ classF b = .nan → fcmpEq a b = false ∧ fcmpNe a b = true ∧ fcmpLt a b = false ∧
      fcmpLe a b = false ∧ fcmpGt a b = false ∧ fcmpGe a b = false) ∧
    (classF a ≠ .nan → classF b ≠ .nan →
      (fcmpEq a b = true ↔ extR a = extR b) ∧ (fcmpNe a b = true ↔ extR a ≠ extR b) ∧
      (fcmpLt a b = true ↔ extR a < extR b) ∧ (fcmpLe a b = true ↔ extR a ≤ extR b) ∧
      (fcmpGt a b = true ↔ extR b < extR a) ∧ (fcmpGe a b = true ↔ extR b ≤ extR a))

/-- `ftoi` (R118) truncates toward zero wherever the magnitude is below 2^31. -/
def Obligations.FtoiTruncates : Prop :=
  ∀ a : F24, isFinite a → |valR a| < (2 : ℝ) ^ (31 : ℤ) →
    (ftoi a).toInt = if 0 ≤ valR a then ⌊valR a⌋ else ⌈valR a⌉

/-- `F24FromF32` (R93) on every binary32 pattern, with sign bit 31, exponent E and fraction F: NaN,
infinity, flush to zero for E at most 64, infinity for E at least 191, else truncation of the magnitude
(1 + F / 2^23) 2^(E - 127) to a 16-bit mantissa. That `F24ToF32` (R95) is undone by
it on canonical values is inferred from the two rules. -/
def Obligations.F32Conversions : Prop :=
  (∀ b : Word,
    (b.toNat / 2 ^ 23 % 256 = 255 → b.toNat % 2 ^ 23 ≠ 0 → classF (f24FromF32 b) = .nan) ∧
    (b.toNat / 2 ^ 23 % 256 = 255 → b.toNat % 2 ^ 23 = 0 → f24FromF32 b = infF (b.getLsbD 31)) ∧
    (b.toNat / 2 ^ 23 % 256 ≤ 64 → f24FromF32 b = zeroF (b.getLsbD 31)) ∧
    (191 ≤ b.toNat / 2 ^ 23 % 256 → b.toNat / 2 ^ 23 % 256 ≤ 254 → f24FromF32 b = infF (b.getLsbD 31)) ∧
    (65 ≤ b.toNat / 2 ^ 23 % 256 → b.toNat / 2 ^ 23 % 256 ≤ 190 →
      ∃ e m : ℕ, classF (f24FromF32 b) = .fin (b.getLsbD 31) e m ∧
        (1 + (m : ℝ) / 65536) * (2 : ℝ) ^ ((e : ℤ) - 63) ≤
          (1 + ((b.toNat % 2 ^ 23 : ℕ) : ℝ) / 2 ^ 23) * (2 : ℝ) ^ (((b.toNat / 2 ^ 23 % 256 : ℕ) : ℤ) - 127) ∧
        (1 + ((b.toNat % 2 ^ 23 : ℕ) : ℝ) / 2 ^ 23) * (2 : ℝ) ^ (((b.toNat / 2 ^ 23 % 256 : ℕ) : ℤ) - 127) <
          (1 + ((m : ℝ) + 1) / 65536) * (2 : ℝ) ^ ((e : ℤ) - 63))) ∧
  (∀ a : F24, classF a ≠ .nan → Canonical a → f24FromF32 (f24ToF32 a) = a) ∧
  ∀ a : F24, classF a = .nan → classF (f24FromF32 (f24ToF32 a)) = .nan

/-- Every arithmetic primitive answers a canonical value: a zero has mantissa 0 (R92); the bit copies fmax, fmin and
fneg do so on canonical operands. The value of any encodings is canonical (R94), and so is what the binary32 form of
a load makes, and what an instruction reads where the registers are. A pattern that is not canonical is its value to
every primitive that does not copy an operand bit for bit (R91, R94): the comparisons, ftoi and all others answer on
the pattern what they answer on its value. That the payload of a NaN result is the same too, where R92 lets two
payloads differ, is the model's choice (assumption 9), and so is that P_EX2 is a function of the operand's value
(assumption 11); that a register can hold a pattern that is not canonical is assumption 13. -/
def Obligations.AluResultsCanonical : Prop :=
  (∀ (t v : Vec4) (w0 w1 w2 w3 : Word), CanonicalVec (loadedValue t) ∧ CanonicalVec (unpackF32 w0 w1 w2 w3) ∧
    IsValueOf t (loadedValue t) ∧ (CanonicalVec v → loadedValue v = v)) ∧
  (∀ a b : F24, classF (f24FromRaw a) = classF a ∧
    fcmpEq (f24FromRaw a) (f24FromRaw b) = fcmpEq a b ∧ fcmpNe (f24FromRaw a) (f24FromRaw b) = fcmpNe a b ∧
    fcmpLt (f24FromRaw a) (f24FromRaw b) = fcmpLt a b ∧ fcmpLe (f24FromRaw a) (f24FromRaw b) = fcmpLe a b ∧
    fcmpGt (f24FromRaw a) (f24FromRaw b) = fcmpGt a b ∧ fcmpGe (f24FromRaw a) (f24FromRaw b) = fcmpGe a b ∧
    ftoi (f24FromRaw a) = ftoi a ∧ ffloor (f24FromRaw a) = ffloor a ∧ frcp (f24FromRaw a) = frcp a ∧
    frsq (f24FromRaw a) = frsq a ∧ fex2 (f24FromRaw a) = fex2 a ∧ flg2 (f24FromRaw a) = flg2 a ∧
    fsge (f24FromRaw a) (f24FromRaw b) = fsge a b ∧ fslt (f24FromRaw a) (f24FromRaw b) = fslt a b ∧
    fadd (f24FromRaw a) (f24FromRaw b) = fadd a b ∧ fmul (f24FromRaw a) (f24FromRaw b) = fmul a b ∧
    ∀ c, fmad (f24FromRaw a) (f24FromRaw b) (f24FromRaw c) = fmad a b c) ∧
  (∀ (x : ShaderUnit) (idx : AddrIdx) (n : NarrowSrc) (m : WideSrc),
    CanonicalFile x.v → CanonicalFile x.r → CanonicalFile x.c →
      CanonicalVec (readNarrow x n) ∧ CanonicalVec (readWide x idx m)) ∧
  (∀ a b : F24, Canonical a → Canonical b → Canonical (fmax a b) ∧ Canonical (fmin a b) ∧ Canonical (fneg a)) ∧
  ∀ a b c : F24, Canonical (fadd a b) ∧ Canonical (fmul a b) ∧ Canonical (fmad a b c) ∧ Canonical (ffloor a) ∧
    Canonical (frcp a) ∧ Canonical (frsq a) ∧ Canonical (fex2 a) ∧ Canonical (flg2 a) ∧ Canonical (fsge a b) ∧
    Canonical (fslt a b) ∧ Canonical (f24FromRaw a) ∧ ∀ w, Canonical (f24FromF32 w)

/-! ### Operands -/

/-- `ReadSrc` (R131): inputs and temporaries are read as named, whatever the address register index; a
float uniform is read at (number + offset) mod 128, the offset being the address register where that lies in
[-128, 127] and 0 elsewhere; from 96 up the read gives (1, 1, 1, 1) (R22). Every read is the register itself, bit for
bit. The descriptor of an instruction is read from the table of the unit that runs, the geometry unit's when that runs
(R45, R207); where neither runs it is the vertex unit's (assumption 34). -/
def Obligations.AddressOffsetRule : Prop :=
  (∀ (x : ShaderUnit) (idx : AddrIdx) (a : Word),
    (idx = .none ∧ a = 0 ∨ idx = .a0x ∧ a = x.a0x ∨ idx = .a0y ∧ a = x.a0y ∨ idx = .aL ∧ a = x.al) →
    (∀ n, readWide x idx (.v n) = x.v[n] ∧ readNarrow x (.v n) = x.v[n]) ∧
    (∀ n, readWide x idx (.r n) = x.r[n] ∧ readNarrow x (.r n) = x.r[n]) ∧
    ∀ (n : BitVec 7) (i : Nat),
      (i : Int) = ((n.toNat : Int) + (if -128 ≤ a.toInt ∧ a.toInt ≤ 127 then a.toInt else 0)) % 128 →
      (∀ h : i < 96, readWide x idx (.c n) = x.c[i]) ∧
      (96 ≤ i → readWide x idx (.c n) = ⟨0x3F0000#24, 0x3F0000#24, 0x3F0000#24, 0x3F0000#24⟩)) ∧
  ∀ (s : State) (d : Nat),
    (s.gs.run = .running → s.cur = .gs ∧ s.curUnit = s.gs ∧ s.descriptor d = swzWord .gs s.gs d) ∧
    (s.gs.run ≠ .running → s.cur = .vs ∧ s.curUnit = s.vs ∧ s.descriptor d = swzWord .vs s.vs d)

/-! ### Arithmetic instructions -/

/-- ADD, MUL, MAX, MIN (R135, R136, R143, R144) complete on all operands and write their primitive of the two
operands, component by component. -/
def Obligations.AddMulMaxMinResult : Prop :=
  Result1 .add (fun a b k => fadd (a k) (b k)) ∧
  Result1 .mul (fun a b k => fmul (a k) (b k)) ∧
  Result1 .max (fun a b k => fmax (a k) (b k)) ∧
  Result1 .min (fun a b k => fmin (a k) (b k))

/-- SGE, SLT, SGEI, SLTI (R147 to R150) complete on all operands and write 1.0 or +0. The inverted forms
compare in the same direction. -/
def Obligations.SetOnCompareResult : Prop :=
  Result1 .sge (fun a b k => oneOrZero (fcmpGe (a k) (b k))) ∧
  Result1 .slt (fun a b k => oneOrZero (fcmpLt (a k) (b k))) ∧
  Result1i .sgei (fun a b k => oneOrZero (fcmpGe (a k) (b k))) ∧
  Result1i .slti (fun a b k => oneOrZero (fcmpLt (a k) (b k)))

/-- DP3, DP4, DPH, DPHI (R117, R139 to R142) complete on all operands and write, to every enabled component, the
sum of the products taken left to right from +0; DPH and DPHI take 1.0 for the w of source 1. -/
def Obligations.DotProductResult : Prop :=
  Result1 .dp3 (fun a b _ => fadd (fadd (fadd 0x000000#24 (fmul (a 0) (b 0))) (fmul (a 1) (b 1))) (fmul (a 2) (b 2))) ∧
  Result1 .dp4 (fun a b _ => fadd (fadd (fadd (fadd 0x000000#24 (fmul (a 0) (b 0))) (fmul (a 1) (b 1)))
    (fmul (a 2) (b 2))) (fmul (a 3) (b 3))) ∧
  Result1 .dph (fun a b _ => fadd (fadd (fadd (fadd 0x000000#24 (fmul (a 0) (b 0))) (fmul (a 1) (b 1)))
    (fmul (a 2) (b 2))) (fmul 0x3F0000#24 (b 3))) ∧
  Result1i .dphi (fun a b _ => fadd (fadd (fadd (fadd 0x000000#24 (fmul (a 0) (b 0))) (fmul (a 1) (b 1)))
    (fmul (a 2) (b 2))) (fmul 0x3F0000#24 (b 3)))

/-- FLR and MOV work component by component (R145, R146); RCP, RSQ, EX2, LG2 apply their function to
component 0 of the operand and write it to every enabled component (R160 to R164). All complete on all
operands. -/
def Obligations.OneSourceResult : Prop :=
  Result1u .flr (fun a k => ffloor (a k)) ∧
  Result1u .mov (fun a k => a k) ∧
  Result1u .rcp (fun a _ => frcp (a 0)) ∧
  Result1u .rsq (fun a _ => frsq (a 0)) ∧
  Result1u .ex2 (fun a _ => fex2 (a 0)) ∧
  Result1u .lg2 (fun a _ => flg2 (a 0))

/-- MAD and MADI (R137, R138) complete on all operands and write the sum of the rounded product and source 3
(R106). -/
def Obligations.MultiplyAddResult : Prop :=
  (∀ dest idx src1 src2 src3 desc s, ∃ t, exec (.mad dest idx src1 src2 src3 desc) s = .next t ∧
    WritesDest s t dest (s.descriptor desc.toNat) (fun k =>
      fadd (fmul (operand (s.descriptor desc.toNat) 0 (readNarrow s.curUnit src1) k)
        (operand (s.descriptor desc.toNat) 1 (readWide s.curUnit idx src2) k))
        (operand (s.descriptor desc.toNat) 2 (readNarrow s.curUnit src3) k))) ∧
  ∀ dest idx src1 src2 src3 desc s, ∃ t, exec (.madi dest idx src1 src2 src3 desc) s = .next t ∧
    WritesDest s t dest (s.descriptor desc.toNat) (fun k =>
      fadd (fmul (operand (s.descriptor desc.toNat) 0 (readNarrow s.curUnit src1) k)
        (operand (s.descriptor desc.toNat) 1 (readNarrow s.curUnit src2) k))
        (operand (s.descriptor desc.toNat) 2 (readWide s.curUnit idx src3) k))

/-- MOVA (R165) completes on all operands: mask bits x and y say which of A0X and A0Y take the integer part of
operand components 0 and 1; nothing else but the pc changes. -/
def Obligations.MovaResult : Prop :=
  ∀ idx src1 desc s, Completes (exec (.mova idx src1 desc) s) s { s.curUnit with
    a0x := if enabled (s.descriptor desc.toNat) 0 then
      ftoi (operand (s.descriptor desc.toNat) 0 (readWide s.curUnit idx src1) 0) else s.curUnit.a0x
    a0y := if enabled (s.descriptor desc.toNat) 1 then
      ftoi (operand (s.descriptor desc.toNat) 0 (readWide s.curUnit idx src1) 1) else s.curUnit.a0y
    pc := s.curUnit.pc + 1 } []

/-- What operator `op` of a CMP makes of a conditional code (R166, R167). -/
def Sys2Proof.Claims.CodeAfter (op : CmpOp) (a b : F24) (old new : Bool) : Prop :=
  match op with
  | .eq => new = fcmpEq a b
  | .ne => new = fcmpNe a b
  | .lt => new = fcmpLt a b
  | .le => new = fcmpLe a b
  | .gt => new = fcmpGt a b
  | .ge => new = fcmpGe a b
  | .unassigned6 => new = old
  | .unassigned7 => new = old

/-- CMP (R166, R167) completes on all operands: each conditional code is its operator's comparison of operand
components 0 (x) and 1 (y), or unchanged under operators 6 and 7, which are recorded, x first (R274); nothing
else but the pc changes. -/
def Obligations.CmpResult : Prop :=
  ∀ cmpx cmpy idx src1 src2 desc s, ∃ ccx ccy,
    Completes (exec (.cmp cmpx cmpy idx src1 src2 desc) s) s
      { s.curUnit with ccx := ccx, ccy := ccy, pc := s.curUnit.pc + 1 }
      ((if cmpx = .unassigned6 then [.badCompareOp s.curUnit.pc 6] else
        if cmpx = .unassigned7 then [.badCompareOp s.curUnit.pc 7] else []) ++
       (if cmpy = .unassigned6 then [.badCompareOp s.curUnit.pc 6] else
        if cmpy = .unassigned7 then [.badCompareOp s.curUnit.pc 7] else [])) ∧
    CodeAfter cmpx (operand (s.descriptor desc.toNat) 0 (readWide s.curUnit idx src1) 0)
      (operand (s.descriptor desc.toNat) 1 (readNarrow s.curUnit src2) 0) s.curUnit.ccx ccx ∧
    CodeAfter cmpy (operand (s.descriptor desc.toNat) 0 (readWide s.curUnit idx src1) 1)
      (operand (s.descriptor desc.toNat) 1 (readNarrow s.curUnit src2) 1) s.curUnit.ccy ccy

/-- DST, DSTI, LIT, BREAK, BREAKC (R151 to R153, R175, R177) and the ten unassigned opcodes (R186) complete on all
operands: the anomaly is recorded, the pc moves on, nothing else changes. That they do nothing more is the
spec's decision D20, not silicon's behaviour (assumption 17). -/
def Obligations.NoOperationOpcodes : Prop :=
  ∀ s : State,
    (∀ dest idx src1 src2 desc, Completes (exec (.dst dest idx src1 src2 desc) s) s
      { s.curUnit with pc := s.curUnit.pc + 1 } [.unimplementedOpcode s.curUnit.pc 0x04]) ∧
    (∀ dest idx src1 src2 desc, Completes (exec (.dsti dest idx src1 src2 desc) s) s
      { s.curUnit with pc := s.curUnit.pc + 1 } [.unimplementedOpcode s.curUnit.pc 0x19]) ∧
    (∀ dest idx src1 desc, Completes (exec (.lit dest idx src1 desc) s) s
      { s.curUnit with pc := s.curUnit.pc + 1 } [.unimplementedOpcode s.curUnit.pc 0x07]) ∧
    Completes (exec .brk s) s { s.curUnit with pc := s.curUnit.pc + 1 } [.unimplementedOpcode s.curUnit.pc 0x20] ∧
    (∀ refx refy cond target num, Completes (exec (.breakc refx refy cond target num) s) s
      { s.curUnit with pc := s.curUnit.pc + 1 } [.unimplementedOpcode s.curUnit.pc 0x23]) ∧
    ∀ i op, (i, op) ∈ [(Instr.unassigned10, 0x10), (.unassigned11, 0x11), (.unassigned14, 0x14),
        (.unassigned15, 0x15), (.unassigned16, 0x16), (.unassigned17, 0x17), (.unassigned1C, 0x1C),
        (.unassigned1D, 0x1D), (.unassigned1E, 0x1E), (.unassigned1F, 0x1F)] →
      Completes (exec i s) s { s.curUnit with pc := s.curUnit.pc + 1 } [.unknownOpcode s.curUnit.pc op]

/-! ### Flow control -/

/-- NOP moves the pc on and END halts the unit, the pc staying (R174, R176); nothing else changes. -/
def Obligations.NopEndResult : Prop :=
  ∀ s : State,
    Completes (exec .nop s) s { s.curUnit with pc := s.curUnit.pc + 1 } [] ∧
    Completes (exec .endProg s) s { s.curUnit with run := .halted } []

/-- The unit after a taken call (R178). -/
def Sys2Proof.Claims.called (x : ShaderUnit) (target : BitVec 12) (num : BitVec 8) : ShaderUnit :=
  { x with
    pc := target.toNat
    stk := { endAddr := target.toNat + num.toNat, retAddr := x.pc + 1, count := 0, inc := 0,
             loopStart := target.toNat, restoreAL := false, savedAL := 0, isLoop := false } :: x.stk }

/-- CALL, CALLC, CALLU (R178 to R180): taken with room on the stack they push the frame of R178 and go to the
target; not taken they move on; taken on a full stack they stop (R172, U3). CALLU's boolean
uniform is its bit of the executing unit's register (R252). -/
def Obligations.CallResult : Prop :=
  ∀ (s : State) (target : BitVec 12) (num : BitVec 8),
    (HasRoom s → Completes (exec (.call target num) s) s (called s.curUnit target num) []) ∧
    (¬ HasRoom s → exec (.call target num) s = .fault .callStackOverflow) ∧
    (∀ refx refy cond,
      (CondHolds s.curUnit refx refy cond → HasRoom s →
        Completes (exec (.callc refx refy cond target num) s) s (called s.curUnit target num) []) ∧
      (CondHolds s.curUnit refx refy cond → ¬ HasRoom s →
        exec (.callc refx refy cond target num) s = .fault .callStackOverflow) ∧
      (¬ CondHolds s.curUnit refx refy cond →
        Completes (exec (.callc refx refy cond target num) s) s { s.curUnit with pc := s.curUnit.pc + 1 } [])) ∧
    ∀ b,
      ((s.hregRead (regBuni s.cur)).getLsbD b.val = true → HasRoom s →
        Completes (exec (.callu b target num) s) s (called s.curUnit target num) []) ∧
      ((s.hregRead (regBuni s.cur)).getLsbD b.val = true → ¬ HasRoom s → exec (.callu b target num) s = .fault .callStackOverflow) ∧
      ((s.hregRead (regBuni s.cur)).getLsbD b.val = false →
        Completes (exec (.callu b target num) s) s { s.curUnit with pc := s.curUnit.pc + 1 } [])

/-- The unit after an IF whose condition is `c` (R181). -/
def Sys2Proof.Claims.branched (x : ShaderUnit) (c : Bool) (target : BitVec 12) (num : BitVec 8) : ShaderUnit :=
  { x with
    pc := if c then x.pc + 1 else target.toNat
    stk := { endAddr := if c then target.toNat else target.toNat + num.toNat
             retAddr := target.toNat + num.toNat, count := 0, inc := 0
             loopStart := if c then x.pc + 1 else target.toNat
             restoreAL := false, savedAL := 0, isLoop := false } :: x.stk }

/-- IFU and IFC (R181, R182): with room on the stack they push a frame in both cases and go to the then-part
or the else-part; on a full stack they stop (R172, U3). IFU's boolean uniform is its bit of
the executing unit's register (R252). -/
def Obligations.IfResult : Prop :=
  ∀ (s : State) (target : BitVec 12) (num : BitVec 8),
    (∀ b, (HasRoom s → Completes (exec (.ifu b target num) s) s
        (branched s.curUnit ((s.hregRead (regBuni s.cur)).getLsbD b.val) target num) []) ∧
      (¬ HasRoom s → exec (.ifu b target num) s = .fault .callStackOverflow)) ∧
    ∀ refx refy cond (c : Bool), (c = true ↔ CondHolds s.curUnit refx refy cond) →
      (HasRoom s → Completes (exec (.ifc refx refy cond target num) s) s (branched s.curUnit c target num) []) ∧
      (¬ HasRoom s → exec (.ifc refx refy cond target num) s = .fault .callStackOverflow)

/-- LOOP (R183): with room on the stack it pushes its frame, sets AL to the start value and moves on; a LOOP
under another LOOP's frame saves the old AL. On a full stack it stops (R172, U3). -/
def Obligations.LoopResult : Prop :=
  ∀ (s : State) (n : Fin 4) (target : BitVec 12) (x y z w : BitVec 8),
    s.hregRead (regIuni s.cur n) = w ++ z ++ y ++ x →
    (HasRoom s → Completes (exec (.loop n target) s) s { s.curUnit with
      pc := s.curUnit.pc + 1
      al := BitVec.ofNat 32 y.toNat
      stk := { endAddr := target.toNat + 1, retAddr := target.toNat + 1, count := x, inc := z,
               loopStart := s.curUnit.pc + 1, isLoop := true,
               restoreAL := s.curUnit.stk.any (·.isLoop),
               savedAL := if s.curUnit.stk.any (·.isLoop) then s.curUnit.al else 0 } :: s.curUnit.stk } []) ∧
    (¬ HasRoom s → exec (.loop n target) s = .fault .callStackOverflow)

/-- JMPC and JMPU (R184, R185) complete on all operands: the pc is the target or the next address, the stack is
not touched, nothing else changes. JMPU's boolean uniform is its bit of the executing unit's register (R252). -/
def Obligations.JumpResult : Prop :=
  ∀ (s : State) (target : BitVec 12),
    (∀ refx refy cond,
      (CondHolds s.curUnit refx refy cond →
        Completes (exec (.jmpc refx refy cond target) s) s { s.curUnit with pc := target.toNat } []) ∧
      (¬ CondHolds s.curUnit refx refy cond →
        Completes (exec (.jmpc refx refy cond target) s) s { s.curUnit with pc := s.curUnit.pc + 1 } [])) ∧
    ∀ b invert,
      ((s.hregRead (regBuni s.cur)).getLsbD b.val = !invert →
        Completes (exec (.jmpu b target invert) s) s { s.curUnit with pc := target.toNat } []) ∧
      ((s.hregRead (regBuni s.cur)).getLsbD b.val = invert →
        Completes (exec (.jmpu b target invert) s) s { s.curUnit with pc := s.curUnit.pc + 1 } [])

/-! ### The geometry emitter -/

/-- SETEMIT and EMIT on the geometry unit (R196 to R199): SETEMIT stores its three fields; EMIT with a slot
0..2 copies the output registers into that slot alone and, with `prim_emit`, pushes an optional winding marker and
the three packed slots in order. The pc moves on; nothing else changes. -/
def Obligations.EmitterResult : Prop :=
  ∀ s : State, s.cur = .gs →
    (∀ v p w, ∃ t, exec (.setemit v p w) s = .next t ∧
      t = { s with
        em := { vertexId := v, primEmit := p, winding := w, buf := s.em.buf }
        gs := { s.gs with pc := s.gs.pc + 1 } } ∧
      ∀ a, memReadByte t.guest a = memReadByte s.guest a) ∧
    (s.em.vertexId ≠ 3 → ∃ t buf, exec .emit s = .next t ∧
      (∀ j : Fin 3, buf[j] = if j.val = s.em.vertexId.toNat then s.gs.o else s.em.buf[j]) ∧
      t = { s with
        em := { s.em with buf := buf }
        gs := { s.gs with pc := s.gs.pc + 1 }
        vout := s.vout ++ (if s.em.primEmit then
          (if s.em.winding then [.windingMarker] else []) ++
            [.vertex (packRegs buf[0] (s.outMask .gs)), .vertex (packRegs buf[1] (s.outMask .gs)),
             .vertex (packRegs buf[2] (s.outMask .gs))] else []) } ∧
      ∀ a, memReadByte t.guest a = memReadByte s.guest a)

/-- Where the spec gives EMIT and SETEMIT no behaviour, the model stops by name (R196, R200, U9, U11): both on the
vertex unit, and EMIT with `vertex_id` 3 on the geometry unit. -/
def Obligations.EmitterRefusals : Prop :=
  ∀ s : State,
    (s.cur = .vs → exec .emit s = .refused .emitterAbsent ∧
      ∀ v p w, exec (.setemit v p w) s = .refused .emitterAbsent) ∧
    (s.cur = .gs → s.em.vertexId = 3 → exec .emit s = .refused .emitSlotOutOfRange)

/-! ### All instructions -/

/-- No instruction faults (R271): on the geometry unit, with room on the stack and a legal emitter slot,
every instruction completes; on the vertex unit, with room on the stack, every instruction but EMIT and
SETEMIT. The only fault an instruction can raise is the stack overflow of R172. -/
def Obligations.EveryInstructionCompletes : Prop :=
  ∀ (i : Instr) (s : State),
    (s.cur = .gs → HasRoom s → s.em.vertexId ≠ 3 → ∃ t, exec i s = .next t) ∧
    (s.cur = .vs → HasRoom s → i ≠ .emit → (∀ v p w, i ≠ .setemit v p w) → ∃ t, exec i s = .next t) ∧
    ∀ e, exec i s = .fault e → e = .callStackOverflow ∧ ¬ HasRoom s

/-- The division of rights (R277): an instruction changes nothing but the executing unit's general registers,
pc, address registers, conditional codes, stack and run state, and, on the geometry unit, the emitter and the
FIFO. No program word, descriptor, uniform, input register, host register or byte of memory changes. -/
def Obligations.ShaderWritesOnlyItsOwnState : Prop :=
  ∀ (i : Instr) (s t : State), exec i s = .next t →
    t = { s with
      vs := if s.cur = .vs then { s.vs with
          o := t.vs.o, r := t.vs.r, pc := t.vs.pc, a0x := t.vs.a0x, a0y := t.vs.a0y, al := t.vs.al, ccx := t.vs.ccx, ccy := t.vs.ccy, stk := t.vs.stk, run := t.vs.run } else s.vs,
      gs := if s.cur = .gs then { s.gs with
          o := t.gs.o, r := t.gs.r, pc := t.gs.pc, a0x := t.gs.a0x, a0y := t.gs.a0y, al := t.gs.al, ccx := t.gs.ccx, ccy := t.gs.ccy, stk := t.gs.stk, run := t.gs.run } else s.gs,
      em := if s.cur = .gs then t.em else s.em,
      vout := if s.cur = .gs then t.vout else s.vout,
      log := t.log } ∧
    s.log <+: t.log ∧ s.vout <+: t.vout ∧ ∀ a, memReadByte t.guest a = memReadByte s.guest a

/-- Which instructions write the special registers of a unit (R18, R19, R20, R21): A0X and A0Y only MOVA, AL only
LOOP, the conditional codes only CMP, the stack only the CALL and IF instructions and LOOP, the run state only END. -/
def Obligations.SpecialRegisterWriters : Prop :=
  ∀ (i : Instr) (s t : State), exec i s = .next t →
    ((t.unit s.cur).a0x ≠ s.curUnit.a0x ∨ (t.unit s.cur).a0y ≠ s.curUnit.a0y →
      ∃ idx src desc, i = .mova idx src desc) ∧
    ((t.unit s.cur).al ≠ s.curUnit.al → ∃ n target, i = .loop n target) ∧
    ((t.unit s.cur).ccx ≠ s.curUnit.ccx ∨ (t.unit s.cur).ccy ≠ s.curUnit.ccy →
      ∃ x y idx src1 src2 desc, i = .cmp x y idx src1 src2 desc) ∧
    ((t.unit s.cur).stk ≠ s.curUnit.stk →
      (∃ target num, i = .call target num) ∨ (∃ x y c target num, i = .callc x y c target num) ∨
      (∃ b target num, i = .callu b target num) ∨ (∃ b target num, i = .ifu b target num) ∨
      (∃ x y c target num, i = .ifc x y c target num) ∨ ∃ n target, i = .loop n target) ∧
    ((t.unit s.cur).run ≠ s.curUnit.run → i = .endProg)

/-- The vertex unit learns nothing of the geometry unit (R207, R281): what an instruction does to it is the same in
any two states that agree on the vertex unit and on the host registers. -/
def Obligations.VertexUnitIgnoresGeometryUnit : Prop :=
  ∀ (i : Instr) (s t s' : State), s.cur = .vs → s'.cur = .vs → s'.vs = s.vs → s'.hreg = s.hreg →
    exec i s = .next t → ∃ t', exec i s' = .next t' ∧ t'.vs = t.vs

/-! ### Invocations and the geometry pipeline -/

/-- The invocation-start state (R205): control state as the rule says, inputs, program state, the other unit and
the emitter untouched. (The temporaries and outputs are free values.) -/
def Obligations.InvocationStart : Prop :=
  ∀ (s : State) (u : UnitId), ∃ r o,
    (s.startUnit u).unit u = { s.unit u with
      pc := ((s.hregRead (regEntry u)).extractLsb' 0 16).toNat
      a0x := 0, a0y := 0, al := 0, ccx := false, ccy := false, stk := [], run := .running, r := r, o := o } ∧
    s.startUnit u = { s.setUnit u ((s.startUnit u).unit u) with fresh := (s.startUnit u).fresh }

/-- `LoadInput` (R206): the last attribute that maps to a register is in it; a register no loaded attribute
maps to keeps its content. -/
def Obligations.LoadInputRule : Prop :=
  ∀ (v a : Vector Vec4 16) (map : Fin 16 → Fin 16) (n : Nat),
    (∀ i : Fin 16, i.val < n → (∀ j : Fin 16, i < j → j.val < n → map j ≠ map i) →
      (loadInput v a map n)[map i] = a[i]) ∧
    ∀ r : Fin 16, (∀ i : Fin 16, i.val < n → map i ≠ r) → (loadInput v a map n)[r] = v[r]

/-- The VS output stage (R208): in every mode the step after END makes the unit idle and submits one vertex to the
geometry pipeline, the enabled output registers in ascending order. In Passthrough mode (R211) that pushes the
vertex; nothing else changes and no unit starts. -/
def Obligations.VsOutputStagePassthrough : Prop :=
  ∀ s : State, s.vs.run = .halted → s.gs.run = .idle →
    ∃ A : Vertex, A = ((List.finRange 16).filter (fun r => (s.hregRead (regOutMask .vs)).getLsbD r.val)).map (fun r => s.vs.o[r]) ∧
      step s = State.gpSubmitVertex { s with vs := { s.vs with run := .idle } } A ∧
      (s.gp = .passthrough →
        step s = .next { s with vs := { s.vs with run := .idle }, vout := s.vout ++ [.vertex A] })

/-- The GS output stage (R209): the step after END makes the geometry unit idle and sets its b15; every other
boolean uniform and every other host register keeps its value, and nothing is pushed. -/
def Obligations.GsOutputStage : Prop :=
  ∀ s : State, s.gs.run = .halted → HregCanonical s.hreg →
    ∃ t, step s = .next t ∧ t = { s with gs := { s.gs with run := .idle }, hreg := t.hreg } ∧
      t.boolUniform .gs 15 = true ∧ (∀ b : Fin 16, b ≠ 15 → t.boolUniform .gs b = s.boolUniform .gs b) ∧
      OtherRegsSame s t (regBuni .gs)

/-- The configuration fields (R253, R254, R255, R256): which bits of which host register each of them is. -/
def Sys2Proof.Claims.ConfigurationFields : Prop :=
  ∀ s : State,
    s.useGs.toNat = (s.hregRead regGsUse).toNat % 4 ∧
    s.gsMode.toNat = (s.hregRead regGsConfig).toNat % 4 ∧
    s.fixedVertexNum = (s.hregRead regGsConfig).toNat / 2 ^ 8 % 16 + 1 ∧
    s.fixedStart = (s.hregRead regGsConfig).toNat / 2 ^ 16 % 256 ∧
    s.mainVertexNum = (s.hregRead regGsMainNum).toNat % 16 + 1 ∧
    s.vsOutNum = (s.hregRead regVsOutNum).toNat % 16 + 1 ∧
    (s.gsShared = true ↔ (s.hregRead regGsShared).toNat % 2 = 0) ∧
    s.topology = (s.hregRead regTopology).toNat / 2 ^ 8 % 4 ∧
    ∀ u : UnitId,
      s.entry u = (s.hregRead (regEntry u)).toNat % 2 ^ 16 ∧
      s.numIn u = (s.hregRead (regInNum u)).toNat % 16 + 1 ∧
      (∀ b : Fin 16, (s.outMask u).getLsbD b.val = (s.hregRead (regOutMask u)).getLsbD b.val) ∧
      (∀ i : Fin 16, i.val < 8 → (s.inMap u i).val = (s.hregRead (regInMap u)).toNat / 2 ^ (4 * i.val) % 16) ∧
      ∀ i : Fin 16, 8 ≤ i.val → (s.inMap u i).val = (s.hregRead (regInMap u + 1)).toNat / 2 ^ (4 * (i.val - 8)) % 16

/-- The numbers of the configuration registers (R262, an informative map that the model takes, assumptions 1 and
23). -/
def Sys2Proof.Claims.ConfigurationRegisterNumbers : Prop :=
  regGsUse = 0x229 ∧ regGsShared = 0x244 ∧ regVsOutNum = 0x24A ∧ regGsConfig = 0x252 ∧ regGsMainNum = 0x254 ∧
  regTopology = 0x25E ∧ ∀ (u : UnitId) (base : Nat), (u = .gs ∧ base = 0x280 ∨ u = .vs ∧ base = 0x2B0) →
    regBuni u = base ∧ (∀ n : Fin 4, regIuni u n = base + 1 + n.val) ∧ regInNum u = base + 0x09 ∧
    regEntry u = base + 0x0A ∧ regInMap u = base + 0x0B ∧ regOutMask u = base + 0x0D

/-- The configuration fields, and `Reconfigure` on an empty pipeline (R210): the four backends, with their copies
sampled from the configuration. The other statements that name a field (LoadInputRule's map and count in its callers,
VsOutputStagePassthrough, PointSubmitVertex, VariableSubmit, the loads) mean the bits stated here. -/
def Obligations.ReconfigureRule : Prop :=
  ConfigurationFields ∧ ConfigurationRegisterNumbers ∧
  ∀ s : State, s.gp.isEmpty = true →
    (s.useGs = 0 → ∃ t, s.reconfigure = .next t ∧ t.gp = .passthrough ∧ t = { s with gp := t.gp, fresh := t.fresh }) ∧
    (s.useGs = 2 → s.gsMode = 0 → s.numIn .gs % s.vsOutNum = 0 → ∃ t buf, s.reconfigure = .next t ∧
      t.gp = .point s.vsOutNum (s.numIn .gs) buf 0 ∧ t = { s with gp := t.gp, fresh := t.fresh }) ∧
    (s.useGs = 2 → s.gsMode = 1 → ∃ t, s.reconfigure = .next t ∧
      t.gp = .variablePrim s.vsOutNum none ∧ t.gp.needIndex = true ∧ t = { s with gp := t.gp, fresh := t.fresh }) ∧
    (s.useGs = 2 → s.gsMode = 2 → s.fixedStart + s.vsOutNum * s.fixedVertexNum ≤ 96 → ∃ t, s.reconfigure = .next t ∧
      t.gp = .fixedPrim s.vsOutNum s.fixedStart (s.fixedStart + s.vsOutNum * s.fixedVertexNum) s.fixedStart ∧
      t = { s with gp := t.gp, fresh := t.fresh })

/-- Point mode (R213): the attributes of a submitted vertex go to the next slots of the buffer; when the buffer is
full the inputs of the geometry unit are loaded from it and the unit starts, else nothing starts. The load takes
the sampled number of attributes (R210). What is written for an attribute the vertex does not have is the model's
choice, a free value (assumption 20). -/
def Obligations.PointSubmitVertex : Prop :=
  ∀ (s : State) (A : Vertex) (vsOut inNum cur : Nat) (buf : Vector Vec4 16), s.gp = .point vsOut inNum buf cur →
    ∃ (t : State) (buf' : Vector Vec4 16), s.gpSubmitVertex A = .next t ∧ TakesAttributes s A ∧
      (∀ j : Fin 16, buf'[j] = if cur ≤ j.val ∧ j.val < cur + vsOut then attrAt s.fresh A (j.val - cur) else buf[j]) ∧
      (cur + vsOut = inNum → t.gp = .point vsOut inNum buf' 0 ∧ t.gs.run = .running ∧ t.gs.pc = s.entry .gs ∧
        t.gs.v = loadInput s.gs.v buf' (s.inMap .gs) inNum ∧ t.gs.c = s.gs.c) ∧
      (cur + vsOut ≠ inNum → t.gp = .point vsOut inNum buf' (cur + vsOut) ∧ t.gs = s.gs) ∧
      t.vs = s.vs ∧ t.vout = s.vout ∧ t.hreg = s.hreg ∧ t.em = s.em

/-- VariablePrimitive mode (R216, R217): the index gives the count, which is the real value of every component of c0
(the pattern of binary32(n) is assumption 32); then main vertices fill `vs_out` uniforms each and the trailing ones
one each; the last one makes the backend wait for an index and starts the geometry unit. What is written for an
attribute the vertex does not have is the model's choice, a free value (assumption 20). -/
def Obligations.VariableSubmit : Prop :=
  (∀ (s : State) (vsOut : Nat) (n : BitVec 16), s.gp = .variablePrim vsOut none → n ≠ 0 →
    ∃ t, s.gpSubmitIndex n = .next t ∧ t = { s with
      gs := { s.gs with c := t.gs.c }
      gp := .variablePrim vsOut (some ⟨(s.hregRead regGsMainNum).toNat % 16 + 1, n.toNat, 1⟩) } ∧
      (∀ k, isFinite (comp t.gs.c[(0 : Fin 96)] k) ∧ valR (comp t.gs.c[(0 : Fin 96)] k) = (n.toNat : ℝ)) ∧
      ∀ j : Fin 96, j ≠ 0 → t.gs.c[j] = s.gs.c[j]) ∧
  ∀ (s : State) (A : Vertex) (vsOut main total cur n : Nat),
    s.gp = .variablePrim vsOut (some ⟨main, total, cur⟩) → (main ≠ 0 ∧ n = vsOut ∨ main = 0 ∧ n = 1) → cur + n ≤ 96 →
    ∃ t, s.gpSubmitVertex A = .next t ∧ TakesAttributes s A ∧
      (∀ j : Fin 96, t.gs.c[j] = if cur ≤ j.val ∧ j.val < cur + n then attrAt s.fresh A (j.val - cur) else s.gs.c[j]) ∧
      (total = 1 → t.gp = .variablePrim vsOut none ∧ t.gs.run = .running ∧ t.gs.pc = s.entry .gs) ∧
      (total ≠ 1 → t.gp = .variablePrim vsOut (some ⟨main - 1, total - 1, cur + n⟩) ∧ t.gs = { s.gs with c := t.gs.c }) ∧
      t.gs.v = s.gs.v ∧ t.vs = s.vs ∧ t.vout = s.vout ∧ t.hreg = s.hreg ∧ t.em = s.em

/-- FixedPrimitive mode (R221): the attributes fill the next `vs_out` uniforms of the window; when the window is
full filling starts over and the geometry unit starts. What is written for an attribute the vertex does not have is
the model's choice, a free value (assumption 20). -/
def Obligations.FixedSubmitVertex : Prop :=
  ∀ (s : State) (A : Vertex) (vsOut first last cur : Nat), s.gp = .fixedPrim vsOut first last cur → cur + vsOut ≤ 96 →
    ∃ t, s.gpSubmitVertex A = .next t ∧ TakesAttributes s A ∧
      (∀ j : Fin 96, t.gs.c[j] = if cur ≤ j.val ∧ j.val < cur + vsOut then attrAt s.fresh A (j.val - cur) else s.gs.c[j]) ∧
      (cur + vsOut = last → t.gp = .fixedPrim vsOut first last first ∧ t.gs.run = .running ∧ t.gs.pc = s.entry .gs) ∧
      (cur + vsOut ≠ last → t.gp = .fixedPrim vsOut first last (cur + vsOut) ∧ t.gs = { s.gs with c := t.gs.c }) ∧
      t.gs.v = s.gs.v ∧ t.vs = s.vs ∧ t.vout = s.vout ∧ t.hreg = s.hreg ∧ t.em = s.em

/-! ### The primitive assembler -/

/-- The triangles of the List, Strip and Fan topologies (R229 to R231) for vertex streams of any length, from an
assembler as `PA.Reset` leaves it. -/
def Obligations.ListStripFanTriangles : Prop :=
  ∀ s : State, s.pa.idx = 0 → s.pa.stripReady = false →
    (s.topology = 0 → ∀ vs : List Vertex,
      (consumeAll s (vs.map .vertex)).tri = s.tri ++ listTriangles vs) ∧
    (s.topology = 1 → ∀ vs : List Vertex,
      (consumeAll s (vs.map .vertex)).tri = s.tri ++ stripOf vs) ∧
    (s.topology = 2 → ∀ vs : List Vertex,
      (consumeAll s (vs.map .vertex)).tri = s.tri ++ fanOf vs)

/-- The Shader topology (R228, R232): a winding marker that arrives any time before the third vertex swaps the
first two vertices of the triangle it completes, and of that triangle only. -/
def Obligations.ShaderTopologyWinding : Prop :=
  ∀ s : State, s.topology = 3 → s.pa.idx = 0 → s.pa.winding = false → ∀ a b c d e f : Vertex,
    (consumeAll s [.vertex a, .vertex b, .vertex c]).tri = s.tri ++ [⟨a, b, c⟩] ∧
    ∀ es, (es = [.windingMarker, .vertex a, .vertex b, .vertex c] ∨ es = [.vertex a, .windingMarker, .vertex b, .vertex c] ∨
        es = [.vertex a, .vertex b, .windingMarker, .vertex c]) →
      (consumeAll s es).tri = s.tri ++ [⟨b, a, c⟩] ∧
      (consumeAll s (es ++ [.vertex d, .vertex e, .vertex f])).tri = s.tri ++ [⟨b, a, c⟩, ⟨d, e, f⟩]

/-! ### The host port -/

/-- A register write (R244 to R246): outside the register file, and always from number 0x10000 on (R240), it is
recorded and dropped; inside, each byte lane of the register comes from the written value where its mask bit is set
and keeps its old content elsewhere, every other register reads as before and nothing else changes, and the side
effect of the register, if it has one, then sees the merged value. A plain register has none. The integer and boolean
uniform registers ARE the uniforms (R252), whose VS writes are copied to the GS unit while the units share (R255; the
copy goes to the GS unit's register, assumption 24). The register numbers are assumption 1. -/
def Obligations.MaskedRegisterWrite : Prop :=
  ∀ (s : State) (id : Nat) (value : Word) (mask : BitVec 4),
    (Config.regfileWords ≤ id ∨ 0x10000 ≤ id →
      s.writeReg id value mask = .next { s with log := s.log ++ [.badRegisterId id] }) ∧
    (id < Config.regfileWords → HregCanonical s.hreg →
      ∃ (m : Word) (s1 : State), IsMerged (s.hregRead id) value mask m ∧ s1.hregRead id = m ∧ OtherRegsSame s s1 id ∧
        s1 = { s with hreg := s1.hreg } ∧ s.writeReg id value mask = s1.sideEffect (hostReg id) m ∧
        (hostReg id = .plain → s.writeReg id value mask = .next s1) ∧
        (∀ u n, id = regIuni u n → ∃ t, s.writeReg id value mask = .next t ∧ t = { s with hreg := t.hreg } ∧
          intX (t.intUniform u n) = m.extractLsb' 0 8 ∧ intY (t.intUniform u n) = m.extractLsb' 8 8 ∧
          intZ (t.intUniform u n) = m.extractLsb' 16 8 ∧ intW (t.intUniform u n) = m.extractLsb' 24 8 ∧
          (u = .vs → s.gsShared = true → t.intUniform .gs n = m) ∧
          ∀ k, k ≠ id → ¬ (u = .vs ∧ s.gsShared = true ∧ k = regIuni .gs n) → t.hregRead k = s.hregRead k) ∧
        ∀ u, id = regBuni u → ∃ t, s.writeReg id value mask = .next t ∧ t = { s with hreg := t.hreg } ∧
          (∀ b : Fin 16, t.boolUniform u b = m.getLsbD b.val) ∧
          (u = .vs → s.gsShared = true → ∀ b : Fin 16, t.boolUniform .gs b = m.getLsbD b.val) ∧
          ∀ k, k ≠ id → ¬ (u = .vs ∧ s.gsShared = true ∧ k = regBuni .gs) → t.hregRead k = s.hregRead k)

/-- Program and descriptor loads with a full mask (R249, R250, R255), at a counter `off` in range: the word is stored at
`off` in the unit and, from the vertex unit in sharing mode, in the geometry unit too; all other words keep their
value; the counter goes on by one; a loaded descriptor is the one that the unit's next instruction reads (R45). With the counter out of range the word is dropped and recorded. -/
def Obligations.ProgramAndDescriptorLoad : Prop :=
  ∀ (s : State) (u : UnitId) (k : Fin 8) (d off : Word), HregCanonical s.hreg →
    (s.hregRead (regProgOffset u) = off → off.toNat < 512 ∨ (u = .gs ∧ off.toNat < 512 + Config.gsProgExtra) →
      ∃ t, s.writeReg (regProgData u + k.val) d 15 = .next t ∧ t.hregRead (regProgOffset u) = off + 1 ∧
        (∀ v a, progWord v (t.unit v) a =
          if a = off.toNat ∧ (v = u ∨ (u = .vs ∧ s.gsShared = true)) then d else progWord v (s.unit v) a) ∧
        t.log = s.log ∧ ∀ v, t.unit v = { s.unit v with prog := (t.unit v).prog }) ∧
    (s.hregRead (regProgOffset u) = off → (u = .vs ∧ 512 ≤ off.toNat) ∨ 512 + Config.gsProgExtra ≤ off.toNat →
      ∃ t, s.writeReg (regProgData u + k.val) d 15 = .next t ∧ t.hregRead (regProgOffset u) = off ∧
        t.log = s.log ++ [.badStreamOffset u .prog off.toNat] ∧ t.vs = s.vs ∧ t.gs = s.gs) ∧
    (s.hregRead (regSwzOffset u) = off → off.toNat < 128 →
      ∃ t, s.writeReg (regSwzData u + k.val) d 15 = .next t ∧ t.hregRead (regSwzOffset u) = off + 1 ∧
        (∀ v a, swzWord v (t.unit v) a =
          if a = off.toNat ∧ (v = u ∨ (u = .vs ∧ s.gsShared = true)) then d else swzWord v (s.unit v) a) ∧
        (∀ a, t.descriptor a =
          if a = off.toNat ∧ (s.cur = u ∨ (u = .vs ∧ s.gsShared = true)) then d else s.descriptor a) ∧
        t.log = s.log ∧ ∀ v, t.unit v = { s.unit v with swz := (t.unit v).swz }) ∧
    (s.hregRead (regSwzOffset u) = off → 128 ≤ off.toNat →
      ∃ t, s.writeReg (regSwzData u + k.val) d 15 = .next t ∧ t.hregRead (regSwzOffset u) = off ∧
        t.log = s.log ++ [.badStreamOffset u .swz off.toNat] ∧ t.vs = s.vs ∧ t.gs = s.gs)

/-- The uniform that the words `b` of a complete float-uniform load make (R251): four binary32 values, w first, or
96 bits that are four raw values, w first, stored bit for bit. -/
def Sys2Proof.Claims.UniformFrom (f32 : Bool) (b : Fin 4 → Word) (t : Vec4) : Prop :=
  if f32 then t = ⟨f24FromF32 (b 3), f24FromF32 (b 2), f24FromF32 (b 1), f24FromF32 (b 0)⟩
  else IsUnpacked (b 0) (b 1) (b 2) t

/-- Float-uniform loads with a full mask (R251, R255), in both forms: the third or fourth word completes the uniform,
which is stored at the index in the unit and, from the vertex unit in sharing mode, in the geometry unit too; every
other uniform keeps its value and the index goes on by one. With an index of 96 or more the uniform is dropped and
recorded. Before the last word no uniform changes. -/
def Obligations.FloatUniformLoad : Prop :=
  ∀ (s : State) (u : UnitId) (k : Fin 8) (d setup : Word) (need : Nat) (b : Fin 4 → Word), HregCanonical s.hreg →
    s.hregRead (regFuniSetup u) = setup → need = (if setup.getLsbD 31 then 4 else 3) → (s.unit u).fuN < 4 →
    (∀ i, b i = if i.val = (s.unit u).fuN then d else (s.unit u).fuBuf[i]) →
    ((s.unit u).fuN + 1 < need →
      ∃ t, s.writeReg (regFuniData u + k.val) d 15 = .next t ∧ (t.unit u).fuN = (s.unit u).fuN + 1 ∧
        (∀ i : Fin 4, (t.unit u).fuBuf[i] = b i) ∧ t.hregRead (regFuniSetup u) = setup ∧
        (∀ v, (t.unit v).c = (s.unit v).c) ∧ t.log = s.log) ∧
    (need ≤ (s.unit u).fuN + 1 → setup.toNat % 256 < 96 →
      ∃ t, s.writeReg (regFuniData u + k.val) d 15 = .next t ∧ (t.unit u).fuN = 0 ∧
        (∀ v (j : Fin 96), j.val = setup.toNat % 256 ∧ (v = u ∨ (u = .vs ∧ s.gsShared = true)) →
          UniformFrom (setup.getLsbD 31) b (t.unit v).c[j]) ∧
        (∀ v (j : Fin 96), ¬ (j.val = setup.toNat % 256 ∧ (v = u ∨ (u = .vs ∧ s.gsShared = true))) →
          (t.unit v).c[j] = (s.unit v).c[j]) ∧
        (t.hregRead (regFuniSetup u)).toNat = setup.toNat + 1 ∧ t.log = s.log) ∧
    (need ≤ (s.unit u).fuN + 1 → 96 ≤ setup.toNat % 256 →
      ∃ t, s.writeReg (regFuniData u + k.val) d 15 = .next t ∧ (t.unit u).fuN = 0 ∧
        t.hregRead (regFuniSetup u) = setup ∧ (∀ v, (t.unit v).c = (s.unit v).c) ∧
        t.log = s.log ++ [.badUniformIndex u (setup.toNat % 256)])

/-- Writes of any value under any mask to the interrupt, topology and restart registers (R234, R254, R261): the first
signals once; the two others reset the assembler, whose buffered vertices are kept but forgotten. No triangle appears.
The register takes the merged value (R245), bits 9:8 of which are the topology. -/
def Obligations.InterruptAndAssemblerReset : Prop :=
  ∀ (s : State) (value : Word) (mask : BitVec 4),
    (∃ t, s.writeReg regIrq value mask = .next t ∧ t = { s with irq := s.irq ++ [.p3d], hreg := t.hreg } ∧
      OtherRegsSame s t regIrq ∧
      (HregCanonical s.hreg → IsMerged (s.hregRead regIrq) value mask (t.hregRead regIrq))) ∧
    ∀ id, id = regTopology ∨ id = regRestart → ∃ t, s.writeReg id value mask = .next t ∧
      t = { s with pa := { s.pa with idx := 0, stripReady := false, winding := false }, hreg := t.hreg } ∧
      OtherRegsSame s t id ∧
      (HregCanonical s.hreg → IsMerged (s.hregRead id) value mask (t.hregRead id) ∧
        (id = regTopology → t.topology = if mask.getLsbD 1 then value.toNat / 2 ^ 8 % 4 else s.topology))

/-- A logical command of a list (R240, R243): it starts at an even word, an odd cursor skipping one; value word first,
header second; the extra words follow, to the same register or to consecutive ones, and the cursor moves behind each
of them after its write. At the end of the list the walk is over. A write of any value under any mask to a sub-list
trigger re-targets the walk to the list its address and size registers name, in units of 8 bytes (R254): as a first
word at cursor 0, as the last extra word at cursor 1, because the cursor moves on behind it; with extra words still to
come it stops by name (U13, assumption 21). That an address does not wrap, whatever its size, is the model's choice
(assumption 39). -/
def Obligations.CommandListDecode : Prop :=
  (∀ (s : State) (c : CmdWalk) (value header : Word), c.burst = none → c.cur < c.len →
    memReadWord s.guest (c.head + 4 * (c.cur + c.cur % 2)) = some value →
    memReadWord s.guest (c.head + 4 * (c.cur + c.cur % 2) + 4) = some header →
    s.listNext c = ({ s with cl := some { c with
        cur := c.cur + c.cur % 2 + 2
        burst := if header.toNat / 2 ^ 20 % 256 = 0 then none else
          some ⟨header.toNat % 65536, header.extractLsb' 16 4, header.getLsbD 31, 1, header.toNat / 2 ^ 20 % 256⟩ } }).writeReg
      (header.toNat % 65536) value (header.extractLsb' 16 4)) ∧
  (∀ (s : State) (c : CmdWalk) (b : Burst) (word : Word), c.burst = some b → 1 ≤ b.left → c.cur < c.len →
    memReadWord s.guest (c.head + 4 * c.cur) = some word →
    ∀ r : Result, r = ({ s with cl := some { c with
        burst := if b.left = 1 then none else some { b with next := b.next + 1, left := b.left - 1 } } }).writeReg
      (if b.group then b.id + b.next else b.id) word b.mask →
      (∀ t, r = .next t → s.listNext c = .next { t with cl := t.cl.map (fun w => { w with cur := w.cur + 1 }) }) ∧
      (∀ e, r = .refused e → s.listNext c = .refused e) ∧ ∀ e, r = .fault e → s.listNext c = .fault e) ∧
  (∀ (s : State) (c : CmdWalk) (b : Burst) (n : Fin 2) (word : Word), c.burst = some b → b.left = 1 → c.cur < c.len →
    memReadWord s.guest (c.head + 4 * c.cur) = some word →
    regSublistTrigger n = (if b.group then b.id + b.next else b.id) →
    ∃ t, s.listNext c = .next t ∧ OtherRegsSame s t (regSublistTrigger n) ∧ t = { s with
      cl := some ⟨8 * (s.hregRead (regSublistAddr n)).toNat, 2 * (s.hregRead (regSublistSize n)).toNat, 1, none⟩
      hreg := t.hreg }) ∧
  (∀ (s : State) (c : CmdWalk), c.burst = none → c.len ≤ c.cur → s.listNext c = .next { s with cl := none }) ∧
  ∀ (s : State) (n : Fin 2) (value : Word) (mask : BitVec 4),
    ((∀ c, s.cl = some c → c.burst = none) → ∃ t, s.writeReg (regSublistTrigger n) value mask = .next t ∧
      t = { s with cl := some ⟨8 * (s.hregRead (regSublistAddr n)).toNat, 2 * (s.hregRead (regSublistSize n)).toNat, 0, none⟩
                   hreg := t.hreg } ∧
      OtherRegsSame s t (regSublistTrigger n)) ∧
    ∀ c b, s.cl = some c → c.burst = some b → s.writeReg (regSublistTrigger n) value mask = .refused .sublistNotLast

/-- The start of a draw (R257): a write of any value under any mask to a draw register runs Reconfigure first and then
waits with the loader's vertices: the first supply that the input names, or a free one (assumption 22), every
attribute pattern arriving as its value (R94). A backend that waits for an index stops a draw without indices (U17, assumption 19). -/
def Sys2Proof.Claims.DrawStartRule : Prop :=
  ∀ (s : State) (id : Nat) (indexed : Bool) (value : Word) (mask : BitVec 4),
    id = regDraw ∧ indexed = false ∨ id = regDrawIndexed ∧ indexed = true →
    ∃ s1 : State, s1 = { s with hreg := s1.hreg } ∧ OtherRegsSame s s1 id ∧
      (∀ e, s1.reconfigure = .refused e → s.writeReg id value mask = .refused e) ∧
      ∀ u, s1.reconfigure = .next u →
        (u.gp.needIndex = true → indexed = false → s.writeReg id value mask = .refused .indexProtocol) ∧
        (u.gp.needIndex = false ∨ indexed = true → ∃ supply items, List.Forall₂ IsReceived supply items ∧
          s.writeReg id value mask = .next { u with draw := some ⟨indexed, items⟩, loader := s.loader.tail } ∧
          ∀ first rest, s.loader = first :: rest → supply = first)

/-- A write to the default-attribute index (R260): 0xF in the merged value begins immediate mode. -/
def Sys2Proof.Claims.DefaultAttributeIndexRule : Prop :=
  ∀ (s : State) (value : Word) (mask : BitVec 4), HregCanonical s.hreg →
    ∃ t, s.writeReg regDefattrIndex value mask = .next t ∧ OtherRegsSame s t regDefattrIndex ∧
      IsMerged (s.hregRead regDefattrIndex) value mask (t.hregRead regDefattrIndex) ∧
      t = if (t.hregRead regDefattrIndex).toNat % 16 = 15 then { s with immN := 0, immFirst := true, hreg := t.hreg }
        else { s with hreg := t.hreg }

/-- A completed immediate-mode attribute (R260): `A` is the attribute buffer with it. Before the last attribute it
waits; with the last one the first vertex after a write of 0xF runs Reconfigure, and the vertex unit starts on the
buffer. A backend that waits for an index stops (U17, assumption 19). A buffer that already holds more attributes
than a lowered NUM_IN[VS] asks for counts as complete (assumption 27). -/
def Sys2Proof.Claims.ImmediateRule (s : State) (r : Result) (A : Vector Vec4 16) : Prop :=
  (s.immN + 1 < s.numIn .vs →
    ∃ t, r = .next t ∧ t = { s with daN := 0, daBuf := t.daBuf, hreg := t.hreg, immN := s.immN + 1, immBuf := A }) ∧
  (s.numIn .vs ≤ s.immN + 1 → ∀ g : Backend,
    s.immFirst = false ∧ g = s.gp ∨ s.immFirst = true ∧ (∃ u, s.reconfigure = .next u ∧ u.gp = g) →
    (g.needIndex = true → r = .refused .indexProtocol) ∧
    (g.needIndex = false → ∃ t, r = .next t ∧ t.gp = g ∧ t.immN = 0 ∧ t.immFirst = false ∧ t.daN = 0 ∧
      t.vs.run = .running ∧ t.vs.pc = s.entry .vs ∧ t.vs.v = loadInput s.vs.v A (s.inMap .vs) (s.numIn .vs) ∧ t.immBuf = A ∧
      t.gs = s.gs ∧ t.vout = s.vout ∧ t.log = s.log))

/-- Writes of the word `d` with a full mask to a default-attribute data register (R260): three words make one vec4 of
raw encodings, bit for bit, which becomes default attribute `index`, or immediate-mode data with index 0xF, or is
recorded and dropped. -/
def Sys2Proof.Claims.DefaultAttributeDataRule : Prop :=
  ∀ (s : State) (k : Fin 3) (d : Word) (b : Fin 3 → Word) (index : Nat), HregCanonical s.hreg → s.daN < 3 →
    index = (s.hregRead regDefattrIndex).toNat % 16 → (∀ i, b i = if i.val = s.daN then d else s.daBuf[i]) →
    (s.daN < 2 → ∃ t, s.writeReg (regDefattrData + k.val) d 15 = .next t ∧
      t = { s with daN := s.daN + 1, daBuf := t.daBuf, hreg := t.hreg } ∧ (∀ i : Fin 3, t.daBuf[i] = b i) ∧
      OtherRegsSame s t (regDefattrData + k.val)) ∧
    (s.daN = 2 → ∀ v : Vec4, IsUnpacked (b 0) (b 1) (b 2) v →
      (index < 12 → ∃ t, s.writeReg (regDefattrData + k.val) d 15 = .next t ∧
        t = { s with daN := 0, daBuf := t.daBuf, defaultAttrs := t.defaultAttrs, hreg := t.hreg } ∧
        (∀ j : Fin 12, t.defaultAttrs[j] = if j.val = index then v else s.defaultAttrs[j]) ∧
        (t.hregRead regDefattrIndex).toNat = (s.hregRead regDefattrIndex).toNat + 1) ∧
      (12 ≤ index → index < 15 → ∃ t, s.writeReg (regDefattrData + k.val) d 15 = .next t ∧
        t = { s with daN := 0, daBuf := t.daBuf, hreg := t.hreg, log := s.log ++ [.badDefaultAttrIndex index] } ∧
        OtherRegsSame s t (regDefattrData + k.val)) ∧
      (index = 15 → s.immN < 16 → ∀ A : Vector Vec4 16,
        (∀ j : Fin 16, A[j] = if j.val = s.immN then v else s.immBuf[j]) →
        ImmediateRule s (s.writeReg (regDefattrData + k.val) d 15) A))

/-- Draws and immediate mode (R257 to R260): the start of a draw; its next element, an index where the backend waits
for one in an indexed draw, else a vertex, whose attributes are loaded and for which the vertex unit starts at its
entry point; its end; the default attributes and the vertices of immediate mode. -/
def Obligations.DrawSequencing : Prop :=
  DrawStartRule ∧
  (∀ (s : State) (d : DrawWalk) (item : LoaderVertex) (rest : List LoaderVertex), d.items = item :: rest →
    (d.indexed = true → s.gp.needIndex = true →
      s.drawNext d = ({ s with draw := some { d with items := rest } }).gpSubmitIndex item.index) ∧
    (d.indexed = false ∨ s.gp.needIndex = false →
      ∃ t, s.drawNext d = .next t ∧ t.draw = some { d with items := rest } ∧ t.vs.run = .running ∧
        t.vs.pc = s.entry .vs ∧ t.vs.stk = [] ∧ t.vs.v = loadInput s.vs.v item.attrs (s.inMap .vs) (s.numIn .vs) ∧
        t.vs.prog = s.vs.prog ∧ t.vs.c = s.vs.c ∧ t.gs = s.gs ∧ t.gp = s.gp ∧ t.vout = s.vout ∧ t.tri = s.tri)) ∧
  (∀ (s : State) (d : DrawWalk), d.items = [] → s.drawNext d = .next { s with draw := none }) ∧
  DefaultAttributeIndexRule ∧ DefaultAttributeDataRule

/-- Guest memory (R42): a word is its four bytes, least significant first; a stored word reads back, every byte outside
it reads as before. That an address does not wrap, whatever its size, is the model's choice (assumption 39). -/
def Obligations.GuestWordReadBack : Prop :=
  (∀ (m : Memory) (a : Nat) (b0 b1 b2 b3 : Byte), memReadByte m a = some b0 → memReadByte m (a + 1) = some b1 →
    memReadByte m (a + 2) = some b2 → memReadByte m (a + 3) = some b3 →
    ∃ w, memReadWord m a = some w ∧ w.toNat = b0.toNat + 2 ^ 8 * b1.toNat + 2 ^ 16 * b2.toNat + 2 ^ 24 * b3.toNat) ∧
  ∀ (m : Memory) (a : Nat) (w : Word), memReadWord (memWriteWord m a w) a = some w ∧
    (∀ k, k < a ∨ a + 4 ≤ k → memReadByte (memWriteWord m a w) k = memReadByte m k) ∧
    (Memory.wf m → Memory.wf (memWriteWord m a w))

end Claims
end

