-- ==== Sys2Proof/Laws/Alu.lean ====
section
/-! SUPPORT. The small lemmas of the f24 format (Machine/Alu.lean): the fields of packed values, the class of
every value the primitives build, and what each primitive can answer. -/

namespace Sys2Proof.Machine

/-! ### Fields of packed values -/

theorem toNat_packF (s : Bool) (e m : Nat) (he : e < 128) (hm : m < 65536) :
    (packF s e m).toNat = s.toNat * 8388608 + e * 65536 + m := by
  unfold packF
  rw [BitVec.toNat_ofNat]
  cases s <;> simp only [Bool.toNat_true, Bool.toNat_false] <;> omega

theorem signF_eq (a : F24) : signF a = decide (8388608 ≤ a.toNat) := by
  have h := a.isLt
  unfold signF
  rw [BitVec.getLsbD, Nat.testBit_eq_decide_div_mod_eq]
  congr 1
  apply propext
  omega

@[simp] theorem signF_packF (s : Bool) (e m : Nat) (he : e < 128) (hm : m < 65536) : signF (packF s e m) = s := by
  rw [signF_eq, toNat_packF s e m he hm]
  cases s <;> simp only [Bool.toNat_true, Bool.toNat_false, decide_eq_true_eq, decide_eq_false_iff_not] <;> omega

@[simp] theorem expF_packF (s : Bool) (e m : Nat) (he : e < 128) (hm : m < 65536) : expF (packF s e m) = e := by
  unfold expF
  rw [toNat_packF s e m he hm]
  cases s <;> simp only [Bool.toNat_true, Bool.toNat_false] <;> omega

@[simp] theorem manF_packF (s : Bool) (e m : Nat) (he : e < 128) (hm : m < 65536) : manF (packF s e m) = m := by
  unfold manF
  rw [toNat_packF s e m he hm]
  cases s <;> simp only [Bool.toNat_true, Bool.toNat_false] <;> omega

theorem expF_lt (a : F24) : expF a < 128 := Nat.mod_lt _ (by decide)

theorem manF_lt (a : F24) : manF a < 65536 := Nat.mod_lt _ (by decide)

/-- A value is what its fields pack to. -/
theorem packF_fields (a : F24) : packF (signF a) (expF a) (manF a) = a := by
  apply BitVec.eq_of_toNat_eq
  rw [toNat_packF _ _ _ (expF_lt a) (manF_lt a), signF_eq]
  have h := a.isLt
  unfold expF manF
  by_cases g : 8388608 ≤ a.toNat <;> simp only [g, decide_true, decide_false, Bool.toNat_true, Bool.toNat_false] <;> omega

/-! ### Classes -/

/-- What `F24FromRaw` answers keeps the sign and the exponent of the pattern (R94). -/
theorem fields_f24FromRaw (r : F24) : signF (f24FromRaw r) = signF r ∧ expF (f24FromRaw r) = expF r := by
  unfold f24FromRaw
  split
  · next h => exact ⟨signF_packF _ _ _ (by decide) (by decide), by rw [h]; exact expF_packF _ _ _ (by decide) (by decide)⟩
  · exact ⟨rfl, rfl⟩

/-- `F24FromRaw` keeps every pattern but one of exponent 0: no NaN payload, infinity or finite value changes (R94). -/
theorem f24FromRaw_of_exp (r : F24) (h : expF r ≠ 0) : f24FromRaw r = r := by
  unfold f24FromRaw; rw [if_neg h]

/-- The table of R91, on the fields of the pattern itself. -/
theorem classF_eq (a : F24) : classF a =
    if expF a = 0 then .zero (signF a)
    else if expF a = 127 then (if manF a = 0 then .inf (signF a) else .nan)
    else .fin (signF a) (expF a) (manF a) := by
  obtain ⟨hs, he⟩ := fields_f24FromRaw a
  unfold classF
  dsimp only
  rw [hs, he]
  by_cases h : expF a = 0
  · rw [if_pos h, if_pos h]
  · rw [f24FromRaw_of_exp a h]

@[simp] theorem classF_zeroF (s : Bool) : classF (zeroF s) = .zero s := by cases s <;> decide

@[simp] theorem classF_infF (s : Bool) : classF (infF s) = .inf s := by cases s <;> decide

@[simp] theorem classF_oneF : classF oneF = .fin false 63 0 := by decide

theorem classF_packF_fin (s : Bool) (e m : Nat) (h1 : 1 ≤ e) (h2 : e ≤ 126) (hm : m < 65536) :
    classF (packF s e m) = .fin s e m := by
  rw [classF_eq, expF_packF s e m (by omega) hm, if_neg (by omega), if_neg (by omega), signF_packF s e m (by omega) hm,
    manF_packF s e m (by omega) hm]

/-- A NaN pattern is a NaN whatever the free bits. -/
@[simp] theorem classF_nanOfBits (bits : F24) : classF (nanOfBits bits) = .nan := by
  have hm := manF_lt bits
  unfold nanOfBits
  have g : (if manF bits = 0 then 1 else manF bits) < 65536 := by split <;> omega
  rw [classF_eq, expF_packF _ _ _ (by decide) g, manF_packF _ _ _ (by decide) g, if_neg (by decide), if_pos rfl, if_neg]
  split <;> omega

@[simp] theorem classF_nanResult (src : Config.NanSource) (a b : F24) : classF (nanResult src a b) = .nan :=
  classF_nanOfBits _

theorem isNaNF_iff (a : F24) : isNaNF a = true ↔ classF a = .nan := by unfold isNaNF; exact decide_eq_true_iff

@[simp] theorem isNaNF_nanResult (src : Config.NanSource) (a b : F24) : isNaNF (nanResult src a b) = true :=
  (isNaNF_iff _).mpr (classF_nanResult src a b)

/-- The fields of a finite value are in range and are the value. -/
theorem classF_fin (a : F24) (s : Bool) (e m : Nat) (h : classF a = .fin s e m) :
    1 ≤ e ∧ e ≤ 126 ∧ m < 65536 ∧ a = packF s e m := by
  rw [classF_eq] at h
  split at h
  · cases h
  · split at h
    · split at h <;> cases h
    · next h0 h127 =>
      cases h
      exact ⟨by omega, by have := expF_lt a; omega, manF_lt a, (packF_fields a).symm⟩

/-- An infinity has one pattern for each sign. -/
theorem classF_inf (a : F24) (s : Bool) (h : classF a = .inf s) : a = infF s := by
  rw [classF_eq] at h
  split at h
  · cases h
  · split at h
    · split at h
      · next _ he hm => cases h; rw [← packF_fields a, he, hm, signF_packF _ _ _ (by decide) (by decide)]; rfl
      · cases h
    · cases h

/-- Negation flips the sign field and keeps the two others (R97). -/
theorem fields_fneg (a : F24) : signF (fneg a) = !signF a ∧ expF (fneg a) = expF a ∧ manF (fneg a) = manF a := by
  have h : (fneg a).toNat = a.toNat ^^^ 2 ^ 23 := by unfold fneg; rw [BitVec.toNat_xor]; rfl
  refine ⟨?_, ?_, ?_⟩
  · unfold signF fneg; rw [BitVec.getLsbD_xor, show (0x800000#24).getLsbD 23 = true by decide, Bool.xor_true]
  · unfold expF
    rw [h, show (65536 : Nat) = 2 ^ 16 by decide, show (128 : Nat) = 2 ^ 7 by decide, Nat.xor_div_two_pow,
      Nat.xor_mod_two_pow, show 2 ^ 23 / 2 ^ 16 % 2 ^ 7 = 0 by decide, Nat.xor_zero]
  · unfold manF
    rw [h, show (65536 : Nat) = 2 ^ 16 by decide, Nat.xor_mod_two_pow, show 2 ^ 23 % 2 ^ 16 = 0 by decide,
      Nat.xor_zero]

/-- The class of a negated value. -/
theorem classF_fneg (a : F24) : classF (fneg a) =
    match classF a with
    | .zero s => .zero (!s)
    | .fin s e m => .fin (!s) e m
    | .inf s => .inf (!s)
    | .nan => .nan := by
  obtain ⟨hs, he, hm⟩ := fields_fneg a
  rw [classF_eq, classF_eq, hs, he, hm]
  by_cases h0 : expF a = 0 <;> by_cases h1 : expF a = 127 <;> by_cases h2 : manF a = 0 <;> simp [h0, h1, h2]

/-- What `F24FromRaw` answers is canonical (R92, R94). -/
theorem manF_f24FromRaw (r : F24) (h : expF (f24FromRaw r) = 0) : manF (f24FromRaw r) = 0 := by
  unfold f24FromRaw at h ⊢
  split
  · cases signF r <;> decide
  · next e => rw [if_neg e] at h; exact absurd h e

/-- A value is its own value (R94). -/
@[simp] theorem f24FromRaw_f24FromRaw (r : F24) : f24FromRaw (f24FromRaw r) = f24FromRaw r := by
  by_cases h : expF r = 0
  · unfold f24FromRaw; rw [if_pos h]; cases signF r <;> decide
  · rw [f24FromRaw_of_exp r h, f24FromRaw_of_exp r h]

/-- The payload of a NaN result is a function of the values of the operands (R92, R120). -/
@[simp] theorem nanResult_f24FromRaw (src : Config.NanSource) (a b : F24) :
    nanResult src (f24FromRaw a) (f24FromRaw b) = nanResult src a b := by
  unfold nanResult; rw [f24FromRaw_f24FromRaw, f24FromRaw_f24FromRaw]

/-- An encoding and its value are of one class (R91, R94): all that most primitives look at. -/
@[simp] theorem classF_f24FromRaw (r : F24) : classF (f24FromRaw r) = classF r := by
  unfold classF
  dsimp only
  rw [f24FromRaw_f24FromRaw]

/-! ### Result rounding -/

/-- The narrowing of R96 answers a zero, an infinity or a finite value, never a NaN. -/
theorem narrowF_cases (s : Bool) (k : Nat) (q : Int) (hk : 0 < k) :
    narrowF s k q = zeroF s ∨ narrowF s k q = infF s ∨
      ∃ e m, 1 ≤ e ∧ e ≤ 126 ∧ m < 65536 ∧ narrowF s k q = packF s e m := by
  unfold narrowF
  dsimp only
  split
  · exact .inl rfl
  · split
    · exact .inr (.inl rfl)
    · refine .inr (.inr ⟨_, _, ?_, ?_, ?_, rfl⟩)
      · omega
      · omega
      · have h1 : k < 2 ^ (k.log2 + 1) := Nat.lt_log2_self
        have h2 : 2 ^ k.log2 ≤ k := Nat.log2_self_le (by omega)
        have h3 : k * 65536 / 2 ^ k.log2 < 131072 := by
          rw [Nat.div_lt_iff_lt_mul (Nat.two_pow_pos _)]
          rw [Nat.pow_succ] at h1
          omega
        omega

/-- The significand `Round24` answers is positive. -/
theorem round24_pos (n d : Nat) (hn : 0 < n) (hd : 0 < d) : 0 < (round24 n d).1 := by
  have key : d * 2 ^ (floorLog2Ratio n d - 23).toNat ≤ n * 2 ^ (-(floorLog2Ratio n d - 23)).toNat := by
    have hn1 : 2 ^ n.log2 ≤ n := Nat.log2_self_le (by omega)
    have hn2 : n < 2 ^ (n.log2 + 1) := Nat.lt_log2_self
    have hd1 : 2 ^ d.log2 ≤ d := Nat.log2_self_le (by omega)
    have hd2 : d < 2 ^ (d.log2 + 1) := Nat.lt_log2_self
    have hle : floorLog2Ratio n d ≤ (n.log2 : Int) - d.log2 := by
      unfold floorLog2Ratio; dsimp only; split <;> omega
    generalize floorLog2Ratio n d = L at hle ⊢
    have hq : L - 23 + 1 ≤ (n.log2 : Int) - d.log2 := by omega
    calc d * 2 ^ (L - 23).toNat ≤ 2 ^ (d.log2 + 1) * 2 ^ (L - 23).toNat := Nat.mul_le_mul_right _ (Nat.le_of_lt hd2)
      _ = 2 ^ (d.log2 + 1 + (L - 23).toNat) := (Nat.pow_add _ _ _).symm
      _ ≤ 2 ^ (n.log2 + (-(L - 23)).toNat) := Nat.pow_le_pow_right (by decide) (by omega)
      _ = 2 ^ n.log2 * 2 ^ (-(L - 23)).toNat := Nat.pow_add _ _ _
      _ ≤ n * 2 ^ (-(L - 23)).toNat := Nat.mul_le_mul_right _ hn1
  have hpos : 0 < n * 2 ^ (-(floorLog2Ratio n d - 23)).toNat / (d * 2 ^ (floorLog2Ratio n d - 23).toNat) :=
    Nat.div_pos key (Nat.mul_pos hd (Nat.two_pow_pos _))
  unfold round24
  dsimp only
  split <;> omega

/-- What `Res` can answer (R96): a zero, an infinity of the sign of the value, or a finite value of that
sign; never a NaN. -/
theorem res_cases (s : Bool) (n d : Nat) (sz : Bool) (hd : 0 < d) :
    res s n d sz = zeroF sz ∨ res s n d sz = zeroF s ∨ res s n d sz = infF s ∨
      ∃ e m, 1 ≤ e ∧ e ≤ 126 ∧ m < 65536 ∧ res s n d sz = packF s e m := by
  unfold res
  split
  · exact .inl rfl
  · next hn => exact .inr (narrowF_cases s _ _ (round24_pos n d (by omega) hd))

/-- `Res` never answers a NaN (R96). -/
theorem classF_res_ne_nan (s : Bool) (n d : Nat) (sz : Bool) (hd : 0 < d) : classF (res s n d sz) ≠ .nan := by
  rcases res_cases s n d sz hd with h | h | h | ⟨e, m, h1, h2, h3, h⟩ <;> rw [h]
  · simp
  · simp
  · simp
  · rw [classF_packF_fin s e m h1 h2 h3]; simp

end Sys2Proof.Machine
end

