-- ==== Sys2Proof/Laws/State.lean ====
section
/-! SUPPORT. The fields of the state under each update of Machine/Ops.lean, one lemma per field per update, so
that no later proof unfolds a record update. -/

namespace Sys2Proof.Machine

/-! ### `setUnit` -/

@[simp] theorem State.unit_setUnit_same (s : State) (u : UnitId) (x : ShaderUnit) : (s.setUnit u x).unit u = x := by
  cases u <;> rfl
@[simp] theorem State.vs_setUnit_gs (s : State) (x : ShaderUnit) : (s.setUnit .gs x).vs = s.vs := rfl
@[simp] theorem State.gs_setUnit_vs (s : State) (x : ShaderUnit) : (s.setUnit .vs x).gs = s.gs := rfl
@[simp] theorem State.vs_setUnit_vs (s : State) (x : ShaderUnit) : (s.setUnit .vs x).vs = x := rfl
@[simp] theorem State.gs_setUnit_gs (s : State) (x : ShaderUnit) : (s.setUnit .gs x).gs = x := rfl
@[simp] theorem State.unit_vs (s : State) : s.unit .vs = s.vs := rfl
@[simp] theorem State.unit_gs (s : State) : s.unit .gs = s.gs := rfl
theorem State.unit_setUnit_other (s : State) (u v : UnitId) (x : ShaderUnit) (h : v ≠ u) :
    (s.setUnit u x).unit v = s.unit v := by
  cases u <;> cases v <;> first | rfl | exact absurd rfl h
@[simp] theorem State.setUnit_setUnit (s : State) (u : UnitId) (x y : ShaderUnit) :
    (s.setUnit u x).setUnit u y = s.setUnit u y := by
  cases u <;> rfl
@[simp] theorem State.setUnit_unit (s : State) (u : UnitId) : s.setUnit u (s.unit u) = s := by
  cases u <;> rfl
@[simp] theorem State.em_setUnit (s : State) (u : UnitId) (x : ShaderUnit) : (s.setUnit u x).em = s.em := by cases u <;> rfl
@[simp] theorem State.gp_setUnit (s : State) (u : UnitId) (x : ShaderUnit) : (s.setUnit u x).gp = s.gp := by cases u <;> rfl
@[simp] theorem State.vout_setUnit (s : State) (u : UnitId) (x : ShaderUnit) : (s.setUnit u x).vout = s.vout := by cases u <;> rfl
@[simp] theorem State.pa_setUnit (s : State) (u : UnitId) (x : ShaderUnit) : (s.setUnit u x).pa = s.pa := by cases u <;> rfl
@[simp] theorem State.tri_setUnit (s : State) (u : UnitId) (x : ShaderUnit) : (s.setUnit u x).tri = s.tri := by cases u <;> rfl
@[simp] theorem State.irq_setUnit (s : State) (u : UnitId) (x : ShaderUnit) : (s.setUnit u x).irq = s.irq := by cases u <;> rfl
@[simp] theorem State.hreg_setUnit (s : State) (u : UnitId) (x : ShaderUnit) : (s.setUnit u x).hreg = s.hreg := by cases u <;> rfl
@[simp] theorem State.guest_setUnit (s : State) (u : UnitId) (x : ShaderUnit) : (s.setUnit u x).guest = s.guest := by cases u <;> rfl
@[simp] theorem State.cl_setUnit (s : State) (u : UnitId) (x : ShaderUnit) : (s.setUnit u x).cl = s.cl := by cases u <;> rfl
@[simp] theorem State.draw_setUnit (s : State) (u : UnitId) (x : ShaderUnit) : (s.setUnit u x).draw = s.draw := by cases u <;> rfl
@[simp] theorem State.daBuf_setUnit (s : State) (u : UnitId) (x : ShaderUnit) : (s.setUnit u x).daBuf = s.daBuf := by cases u <;> rfl
@[simp] theorem State.daN_setUnit (s : State) (u : UnitId) (x : ShaderUnit) : (s.setUnit u x).daN = s.daN := by cases u <;> rfl
@[simp] theorem State.defaultAttrs_setUnit (s : State) (u : UnitId) (x : ShaderUnit) : (s.setUnit u x).defaultAttrs = s.defaultAttrs := by cases u <;> rfl
@[simp] theorem State.immBuf_setUnit (s : State) (u : UnitId) (x : ShaderUnit) : (s.setUnit u x).immBuf = s.immBuf := by cases u <;> rfl
@[simp] theorem State.immN_setUnit (s : State) (u : UnitId) (x : ShaderUnit) : (s.setUnit u x).immN = s.immN := by cases u <;> rfl
@[simp] theorem State.immFirst_setUnit (s : State) (u : UnitId) (x : ShaderUnit) : (s.setUnit u x).immFirst = s.immFirst := by cases u <;> rfl
@[simp] theorem State.log_setUnit (s : State) (u : UnitId) (x : ShaderUnit) : (s.setUnit u x).log = s.log := by cases u <;> rfl
@[simp] theorem State.hostCalls_setUnit (s : State) (u : UnitId) (x : ShaderUnit) : (s.setUnit u x).hostCalls = s.hostCalls := by cases u <;> rfl
@[simp] theorem State.loader_setUnit (s : State) (u : UnitId) (x : ShaderUnit) : (s.setUnit u x).loader = s.loader := by cases u <;> rfl
@[simp] theorem State.fresh_setUnit (s : State) (u : UnitId) (x : ShaderUnit) : (s.setUnit u x).fresh = s.fresh := by cases u <;> rfl

/-! ### `setCur` -/

@[simp] theorem State.em_setCur (s : State) (x : ShaderUnit) : (s.setCur x).em = s.em := State.em_setUnit s s.cur x
@[simp] theorem State.gp_setCur (s : State) (x : ShaderUnit) : (s.setCur x).gp = s.gp := State.gp_setUnit s s.cur x
@[simp] theorem State.vout_setCur (s : State) (x : ShaderUnit) : (s.setCur x).vout = s.vout := State.vout_setUnit s s.cur x
@[simp] theorem State.pa_setCur (s : State) (x : ShaderUnit) : (s.setCur x).pa = s.pa := State.pa_setUnit s s.cur x
@[simp] theorem State.tri_setCur (s : State) (x : ShaderUnit) : (s.setCur x).tri = s.tri := State.tri_setUnit s s.cur x
@[simp] theorem State.irq_setCur (s : State) (x : ShaderUnit) : (s.setCur x).irq = s.irq := State.irq_setUnit s s.cur x
@[simp] theorem State.hreg_setCur (s : State) (x : ShaderUnit) : (s.setCur x).hreg = s.hreg := State.hreg_setUnit s s.cur x
@[simp] theorem State.guest_setCur (s : State) (x : ShaderUnit) : (s.setCur x).guest = s.guest := State.guest_setUnit s s.cur x
@[simp] theorem State.cl_setCur (s : State) (x : ShaderUnit) : (s.setCur x).cl = s.cl := State.cl_setUnit s s.cur x
@[simp] theorem State.draw_setCur (s : State) (x : ShaderUnit) : (s.setCur x).draw = s.draw := State.draw_setUnit s s.cur x
@[simp] theorem State.daBuf_setCur (s : State) (x : ShaderUnit) : (s.setCur x).daBuf = s.daBuf := State.daBuf_setUnit s s.cur x
@[simp] theorem State.daN_setCur (s : State) (x : ShaderUnit) : (s.setCur x).daN = s.daN := State.daN_setUnit s s.cur x
@[simp] theorem State.defaultAttrs_setCur (s : State) (x : ShaderUnit) : (s.setCur x).defaultAttrs = s.defaultAttrs := State.defaultAttrs_setUnit s s.cur x
@[simp] theorem State.immBuf_setCur (s : State) (x : ShaderUnit) : (s.setCur x).immBuf = s.immBuf := State.immBuf_setUnit s s.cur x
@[simp] theorem State.immN_setCur (s : State) (x : ShaderUnit) : (s.setCur x).immN = s.immN := State.immN_setUnit s s.cur x
@[simp] theorem State.immFirst_setCur (s : State) (x : ShaderUnit) : (s.setCur x).immFirst = s.immFirst := State.immFirst_setUnit s s.cur x
@[simp] theorem State.log_setCur (s : State) (x : ShaderUnit) : (s.setCur x).log = s.log := State.log_setUnit s s.cur x
@[simp] theorem State.hostCalls_setCur (s : State) (x : ShaderUnit) : (s.setCur x).hostCalls = s.hostCalls := State.hostCalls_setUnit s s.cur x
@[simp] theorem State.loader_setCur (s : State) (x : ShaderUnit) : (s.setCur x).loader = s.loader := State.loader_setUnit s s.cur x
@[simp] theorem State.fresh_setCur (s : State) (x : ShaderUnit) : (s.setCur x).fresh = s.fresh := State.fresh_setUnit s s.cur x

/-- The executing unit stays the executing one as long as its run state stays. -/
theorem State.cur_setCur (s : State) (x : ShaderUnit) (h : x.run = s.curUnit.run) : (s.setCur x).cur = s.cur := by
  unfold State.setCur State.cur State.curUnit State.cur at *
  by_cases g : s.gs.run = .running <;> simp_all [State.unit, State.setUnit]

/-- The executing unit after its replacement, when its run state stays. -/
theorem State.curUnit_setCur (s : State) (x : ShaderUnit) (h : x.run = s.curUnit.run) :
    (s.setCur x).curUnit = x := by
  unfold State.curUnit
  rw [State.cur_setCur s x h]
  exact State.unit_setUnit_same s s.cur x

/-- The unit that was executing holds what was put there, whatever its run state. -/
@[simp] theorem State.unit_cur_setCur (s : State) (x : ShaderUnit) : (s.setCur x).unit s.cur = x :=
  State.unit_setUnit_same s s.cur x

/-- The other unit is untouched. -/
theorem State.unit_setCur_other (s : State) (x : ShaderUnit) (v : UnitId) (h : v ≠ s.cur) :
    (s.setCur x).unit v = s.unit v :=
  State.unit_setUnit_other s s.cur v x h

/-! ### `cursorNext` -/

@[simp] theorem State.vs_cursorNext (s : State) : s.cursorNext.vs = s.vs := rfl
@[simp] theorem State.gs_cursorNext (s : State) : s.cursorNext.gs = s.gs := rfl
@[simp] theorem State.em_cursorNext (s : State) : s.cursorNext.em = s.em := rfl
@[simp] theorem State.gp_cursorNext (s : State) : s.cursorNext.gp = s.gp := rfl
@[simp] theorem State.vout_cursorNext (s : State) : s.cursorNext.vout = s.vout := rfl
@[simp] theorem State.pa_cursorNext (s : State) : s.cursorNext.pa = s.pa := rfl
@[simp] theorem State.tri_cursorNext (s : State) : s.cursorNext.tri = s.tri := rfl
@[simp] theorem State.irq_cursorNext (s : State) : s.cursorNext.irq = s.irq := rfl
@[simp] theorem State.hreg_cursorNext (s : State) : s.cursorNext.hreg = s.hreg := rfl
@[simp] theorem State.guest_cursorNext (s : State) : s.cursorNext.guest = s.guest := rfl
@[simp] theorem State.draw_cursorNext (s : State) : s.cursorNext.draw = s.draw := rfl
@[simp] theorem State.daBuf_cursorNext (s : State) : s.cursorNext.daBuf = s.daBuf := rfl
@[simp] theorem State.daN_cursorNext (s : State) : s.cursorNext.daN = s.daN := rfl
@[simp] theorem State.defaultAttrs_cursorNext (s : State) : s.cursorNext.defaultAttrs = s.defaultAttrs := rfl
@[simp] theorem State.immBuf_cursorNext (s : State) : s.cursorNext.immBuf = s.immBuf := rfl
@[simp] theorem State.immN_cursorNext (s : State) : s.cursorNext.immN = s.immN := rfl
@[simp] theorem State.immFirst_cursorNext (s : State) : s.cursorNext.immFirst = s.immFirst := rfl
@[simp] theorem State.log_cursorNext (s : State) : s.cursorNext.log = s.log := rfl
@[simp] theorem State.hostCalls_cursorNext (s : State) : s.cursorNext.hostCalls = s.hostCalls := rfl
@[simp] theorem State.loader_cursorNext (s : State) : s.cursorNext.loader = s.loader := rfl
@[simp] theorem State.fresh_cursorNext (s : State) : s.cursorNext.fresh = s.fresh := rfl
@[simp] theorem State.cl_cursorNext (s : State) :
    s.cursorNext.cl = s.cl.map (fun c => { c with cur := c.cur + 1 }) := rfl
@[simp] theorem State.unit_cursorNext (s : State) (u : UnitId) : s.cursorNext.unit u = s.unit u := by cases u <;> rfl
@[simp] theorem State.cur_cursorNext (s : State) : s.cursorNext.cur = s.cur := rfl
@[simp] theorem State.hregRead_cursorNext (s : State) (id : Nat) : s.cursorNext.hregRead id = s.hregRead id := rfl

/-! ### `raise` -/

@[simp] theorem State.vs_raise (s : State) (a : Anomaly) : (s.raise a).vs = s.vs := rfl
@[simp] theorem State.gs_raise (s : State) (a : Anomaly) : (s.raise a).gs = s.gs := rfl
@[simp] theorem State.em_raise (s : State) (a : Anomaly) : (s.raise a).em = s.em := rfl
@[simp] theorem State.gp_raise (s : State) (a : Anomaly) : (s.raise a).gp = s.gp := rfl
@[simp] theorem State.vout_raise (s : State) (a : Anomaly) : (s.raise a).vout = s.vout := rfl
@[simp] theorem State.pa_raise (s : State) (a : Anomaly) : (s.raise a).pa = s.pa := rfl
@[simp] theorem State.tri_raise (s : State) (a : Anomaly) : (s.raise a).tri = s.tri := rfl
@[simp] theorem State.irq_raise (s : State) (a : Anomaly) : (s.raise a).irq = s.irq := rfl
@[simp] theorem State.hreg_raise (s : State) (a : Anomaly) : (s.raise a).hreg = s.hreg := rfl
@[simp] theorem State.guest_raise (s : State) (a : Anomaly) : (s.raise a).guest = s.guest := rfl
@[simp] theorem State.cl_raise (s : State) (a : Anomaly) : (s.raise a).cl = s.cl := rfl
@[simp] theorem State.draw_raise (s : State) (a : Anomaly) : (s.raise a).draw = s.draw := rfl
@[simp] theorem State.daBuf_raise (s : State) (a : Anomaly) : (s.raise a).daBuf = s.daBuf := rfl
@[simp] theorem State.daN_raise (s : State) (a : Anomaly) : (s.raise a).daN = s.daN := rfl
@[simp] theorem State.defaultAttrs_raise (s : State) (a : Anomaly) : (s.raise a).defaultAttrs = s.defaultAttrs := rfl
@[simp] theorem State.immBuf_raise (s : State) (a : Anomaly) : (s.raise a).immBuf = s.immBuf := rfl
@[simp] theorem State.immN_raise (s : State) (a : Anomaly) : (s.raise a).immN = s.immN := rfl
@[simp] theorem State.immFirst_raise (s : State) (a : Anomaly) : (s.raise a).immFirst = s.immFirst := rfl
@[simp] theorem State.hostCalls_raise (s : State) (a : Anomaly) : (s.raise a).hostCalls = s.hostCalls := rfl
@[simp] theorem State.loader_raise (s : State) (a : Anomaly) : (s.raise a).loader = s.loader := rfl
@[simp] theorem State.fresh_raise (s : State) (a : Anomaly) : (s.raise a).fresh = s.fresh := rfl
@[simp] theorem State.log_raise (s : State) (a : Anomaly) : (s.raise a).log = s.log ++ [a] := rfl
@[simp] theorem State.unit_raise (s : State) (a : Anomaly) (u : UnitId) : (s.raise a).unit u = s.unit u := by cases u <;> rfl
@[simp] theorem State.cur_raise (s : State) (a : Anomaly) : (s.raise a).cur = s.cur := rfl
@[simp] theorem State.curUnit_raise (s : State) (a : Anomaly) : (s.raise a).curUnit = s.curUnit := by
  unfold State.curUnit; simp

/-! ### `hregWrite` -/

@[simp] theorem State.vs_hregWrite (s : State) (id : Nat) (w : Word) : (s.hregWrite id w).vs = s.vs := rfl
@[simp] theorem State.gs_hregWrite (s : State) (id : Nat) (w : Word) : (s.hregWrite id w).gs = s.gs := rfl
@[simp] theorem State.em_hregWrite (s : State) (id : Nat) (w : Word) : (s.hregWrite id w).em = s.em := rfl
@[simp] theorem State.gp_hregWrite (s : State) (id : Nat) (w : Word) : (s.hregWrite id w).gp = s.gp := rfl
@[simp] theorem State.vout_hregWrite (s : State) (id : Nat) (w : Word) : (s.hregWrite id w).vout = s.vout := rfl
@[simp] theorem State.pa_hregWrite (s : State) (id : Nat) (w : Word) : (s.hregWrite id w).pa = s.pa := rfl
@[simp] theorem State.tri_hregWrite (s : State) (id : Nat) (w : Word) : (s.hregWrite id w).tri = s.tri := rfl
@[simp] theorem State.irq_hregWrite (s : State) (id : Nat) (w : Word) : (s.hregWrite id w).irq = s.irq := rfl
@[simp] theorem State.guest_hregWrite (s : State) (id : Nat) (w : Word) : (s.hregWrite id w).guest = s.guest := rfl
@[simp] theorem State.cl_hregWrite (s : State) (id : Nat) (w : Word) : (s.hregWrite id w).cl = s.cl := rfl
@[simp] theorem State.draw_hregWrite (s : State) (id : Nat) (w : Word) : (s.hregWrite id w).draw = s.draw := rfl
@[simp] theorem State.daBuf_hregWrite (s : State) (id : Nat) (w : Word) : (s.hregWrite id w).daBuf = s.daBuf := rfl
@[simp] theorem State.daN_hregWrite (s : State) (id : Nat) (w : Word) : (s.hregWrite id w).daN = s.daN := rfl
@[simp] theorem State.defaultAttrs_hregWrite (s : State) (id : Nat) (w : Word) : (s.hregWrite id w).defaultAttrs = s.defaultAttrs := rfl
@[simp] theorem State.immBuf_hregWrite (s : State) (id : Nat) (w : Word) : (s.hregWrite id w).immBuf = s.immBuf := rfl
@[simp] theorem State.immN_hregWrite (s : State) (id : Nat) (w : Word) : (s.hregWrite id w).immN = s.immN := rfl
@[simp] theorem State.immFirst_hregWrite (s : State) (id : Nat) (w : Word) : (s.hregWrite id w).immFirst = s.immFirst := rfl
@[simp] theorem State.log_hregWrite (s : State) (id : Nat) (w : Word) : (s.hregWrite id w).log = s.log := rfl
@[simp] theorem State.hostCalls_hregWrite (s : State) (id : Nat) (w : Word) : (s.hregWrite id w).hostCalls = s.hostCalls := rfl
@[simp] theorem State.loader_hregWrite (s : State) (id : Nat) (w : Word) : (s.hregWrite id w).loader = s.loader := rfl
@[simp] theorem State.fresh_hregWrite (s : State) (id : Nat) (w : Word) : (s.hregWrite id w).fresh = s.fresh := rfl
@[simp] theorem State.unit_hregWrite (s : State) (id : Nat) (w : Word) (u : UnitId) : (s.hregWrite id w).unit u = s.unit u := by
  cases u <;> rfl

/-! ### `jump` and `advance` -/

@[simp] theorem State.cur_jump (s : State) (t : Nat) : (s.jump t).cur = s.cur := State.cur_setCur s _ rfl
@[simp] theorem State.curUnit_jump (s : State) (t : Nat) : (s.jump t).curUnit = { s.curUnit with pc := t } :=
  State.curUnit_setCur s _ rfl
@[simp] theorem State.cur_advance (s : State) : s.advance.cur = s.cur := State.cur_jump s _
@[simp] theorem State.curUnit_advance (s : State) : s.advance.curUnit = { s.curUnit with pc := s.curUnit.pc + 1 } :=
  State.curUnit_jump s _
@[simp] theorem State.em_jump (s : State) (t : Nat) : (s.jump t).em = s.em := State.em_setCur s _
@[simp] theorem State.em_advance (s : State) : s.advance.em = s.em := State.em_jump s _
@[simp] theorem State.gp_jump (s : State) (t : Nat) : (s.jump t).gp = s.gp := State.gp_setCur s _
@[simp] theorem State.gp_advance (s : State) : s.advance.gp = s.gp := State.gp_jump s _
@[simp] theorem State.vout_jump (s : State) (t : Nat) : (s.jump t).vout = s.vout := State.vout_setCur s _
@[simp] theorem State.vout_advance (s : State) : s.advance.vout = s.vout := State.vout_jump s _
@[simp] theorem State.pa_jump (s : State) (t : Nat) : (s.jump t).pa = s.pa := State.pa_setCur s _
@[simp] theorem State.pa_advance (s : State) : s.advance.pa = s.pa := State.pa_jump s _
@[simp] theorem State.tri_jump (s : State) (t : Nat) : (s.jump t).tri = s.tri := State.tri_setCur s _
@[simp] theorem State.tri_advance (s : State) : s.advance.tri = s.tri := State.tri_jump s _
@[simp] theorem State.irq_jump (s : State) (t : Nat) : (s.jump t).irq = s.irq := State.irq_setCur s _
@[simp] theorem State.irq_advance (s : State) : s.advance.irq = s.irq := State.irq_jump s _
@[simp] theorem State.hreg_jump (s : State) (t : Nat) : (s.jump t).hreg = s.hreg := State.hreg_setCur s _
@[simp] theorem State.hreg_advance (s : State) : s.advance.hreg = s.hreg := State.hreg_jump s _
@[simp] theorem State.guest_jump (s : State) (t : Nat) : (s.jump t).guest = s.guest := State.guest_setCur s _
@[simp] theorem State.guest_advance (s : State) : s.advance.guest = s.guest := State.guest_jump s _
@[simp] theorem State.cl_jump (s : State) (t : Nat) : (s.jump t).cl = s.cl := State.cl_setCur s _
@[simp] theorem State.cl_advance (s : State) : s.advance.cl = s.cl := State.cl_jump s _
@[simp] theorem State.draw_jump (s : State) (t : Nat) : (s.jump t).draw = s.draw := State.draw_setCur s _
@[simp] theorem State.draw_advance (s : State) : s.advance.draw = s.draw := State.draw_jump s _
@[simp] theorem State.daBuf_jump (s : State) (t : Nat) : (s.jump t).daBuf = s.daBuf := State.daBuf_setCur s _
@[simp] theorem State.daBuf_advance (s : State) : s.advance.daBuf = s.daBuf := State.daBuf_jump s _
@[simp] theorem State.daN_jump (s : State) (t : Nat) : (s.jump t).daN = s.daN := State.daN_setCur s _
@[simp] theorem State.daN_advance (s : State) : s.advance.daN = s.daN := State.daN_jump s _
@[simp] theorem State.defaultAttrs_jump (s : State) (t : Nat) : (s.jump t).defaultAttrs = s.defaultAttrs := State.defaultAttrs_setCur s _
@[simp] theorem State.defaultAttrs_advance (s : State) : s.advance.defaultAttrs = s.defaultAttrs := State.defaultAttrs_jump s _
@[simp] theorem State.immBuf_jump (s : State) (t : Nat) : (s.jump t).immBuf = s.immBuf := State.immBuf_setCur s _
@[simp] theorem State.immBuf_advance (s : State) : s.advance.immBuf = s.immBuf := State.immBuf_jump s _
@[simp] theorem State.immN_jump (s : State) (t : Nat) : (s.jump t).immN = s.immN := State.immN_setCur s _
@[simp] theorem State.immN_advance (s : State) : s.advance.immN = s.immN := State.immN_jump s _
@[simp] theorem State.immFirst_jump (s : State) (t : Nat) : (s.jump t).immFirst = s.immFirst := State.immFirst_setCur s _
@[simp] theorem State.immFirst_advance (s : State) : s.advance.immFirst = s.immFirst := State.immFirst_jump s _
@[simp] theorem State.log_jump (s : State) (t : Nat) : (s.jump t).log = s.log := State.log_setCur s _
@[simp] theorem State.log_advance (s : State) : s.advance.log = s.log := State.log_jump s _
@[simp] theorem State.hostCalls_jump (s : State) (t : Nat) : (s.jump t).hostCalls = s.hostCalls := State.hostCalls_setCur s _
@[simp] theorem State.hostCalls_advance (s : State) : s.advance.hostCalls = s.hostCalls := State.hostCalls_jump s _
@[simp] theorem State.loader_jump (s : State) (t : Nat) : (s.jump t).loader = s.loader := State.loader_setCur s _
@[simp] theorem State.loader_advance (s : State) : s.advance.loader = s.loader := State.loader_jump s _
@[simp] theorem State.fresh_jump (s : State) (t : Nat) : (s.jump t).fresh = s.fresh := State.fresh_setCur s _
@[simp] theorem State.fresh_advance (s : State) : s.advance.fresh = s.fresh := State.fresh_jump s _

/-! ### `startUnit` -/

@[simp] theorem State.em_startUnit (s : State) (u : UnitId) : (s.startUnit u).em = s.em := by cases u <;> rfl
@[simp] theorem State.gp_startUnit (s : State) (u : UnitId) : (s.startUnit u).gp = s.gp := by cases u <;> rfl
@[simp] theorem State.vout_startUnit (s : State) (u : UnitId) : (s.startUnit u).vout = s.vout := by cases u <;> rfl
@[simp] theorem State.pa_startUnit (s : State) (u : UnitId) : (s.startUnit u).pa = s.pa := by cases u <;> rfl
@[simp] theorem State.tri_startUnit (s : State) (u : UnitId) : (s.startUnit u).tri = s.tri := by cases u <;> rfl
@[simp] theorem State.irq_startUnit (s : State) (u : UnitId) : (s.startUnit u).irq = s.irq := by cases u <;> rfl
@[simp] theorem State.hreg_startUnit (s : State) (u : UnitId) : (s.startUnit u).hreg = s.hreg := by cases u <;> rfl
@[simp] theorem State.guest_startUnit (s : State) (u : UnitId) : (s.startUnit u).guest = s.guest := by cases u <;> rfl
@[simp] theorem State.cl_startUnit (s : State) (u : UnitId) : (s.startUnit u).cl = s.cl := by cases u <;> rfl
@[simp] theorem State.draw_startUnit (s : State) (u : UnitId) : (s.startUnit u).draw = s.draw := by cases u <;> rfl
@[simp] theorem State.daBuf_startUnit (s : State) (u : UnitId) : (s.startUnit u).daBuf = s.daBuf := by cases u <;> rfl
@[simp] theorem State.daN_startUnit (s : State) (u : UnitId) : (s.startUnit u).daN = s.daN := by cases u <;> rfl
@[simp] theorem State.defaultAttrs_startUnit (s : State) (u : UnitId) : (s.startUnit u).defaultAttrs = s.defaultAttrs := by cases u <;> rfl
@[simp] theorem State.immBuf_startUnit (s : State) (u : UnitId) : (s.startUnit u).immBuf = s.immBuf := by cases u <;> rfl
@[simp] theorem State.immN_startUnit (s : State) (u : UnitId) : (s.startUnit u).immN = s.immN := by cases u <;> rfl
@[simp] theorem State.immFirst_startUnit (s : State) (u : UnitId) : (s.startUnit u).immFirst = s.immFirst := by cases u <;> rfl
@[simp] theorem State.log_startUnit (s : State) (u : UnitId) : (s.startUnit u).log = s.log := by cases u <;> rfl
@[simp] theorem State.hostCalls_startUnit (s : State) (u : UnitId) : (s.startUnit u).hostCalls = s.hostCalls := by cases u <;> rfl
@[simp] theorem State.loader_startUnit (s : State) (u : UnitId) : (s.startUnit u).loader = s.loader := by cases u <;> rfl
@[simp] theorem State.fresh_startUnit (s : State) (u : UnitId) : (s.startUnit u).fresh = s.fresh + 128 := rfl

/-! ### `loadUnit` -/

@[simp] theorem State.em_loadUnit (s : State) (u : UnitId) (a : Vector Vec4 16) (n : Nat) : (s.loadUnit u a n).em = s.em := by cases u <;> rfl
@[simp] theorem State.gp_loadUnit (s : State) (u : UnitId) (a : Vector Vec4 16) (n : Nat) : (s.loadUnit u a n).gp = s.gp := by cases u <;> rfl
@[simp] theorem State.vout_loadUnit (s : State) (u : UnitId) (a : Vector Vec4 16) (n : Nat) : (s.loadUnit u a n).vout = s.vout := by cases u <;> rfl
@[simp] theorem State.pa_loadUnit (s : State) (u : UnitId) (a : Vector Vec4 16) (n : Nat) : (s.loadUnit u a n).pa = s.pa := by cases u <;> rfl
@[simp] theorem State.tri_loadUnit (s : State) (u : UnitId) (a : Vector Vec4 16) (n : Nat) : (s.loadUnit u a n).tri = s.tri := by cases u <;> rfl
@[simp] theorem State.irq_loadUnit (s : State) (u : UnitId) (a : Vector Vec4 16) (n : Nat) : (s.loadUnit u a n).irq = s.irq := by cases u <;> rfl
@[simp] theorem State.hreg_loadUnit (s : State) (u : UnitId) (a : Vector Vec4 16) (n : Nat) : (s.loadUnit u a n).hreg = s.hreg := by cases u <;> rfl
@[simp] theorem State.guest_loadUnit (s : State) (u : UnitId) (a : Vector Vec4 16) (n : Nat) : (s.loadUnit u a n).guest = s.guest := by cases u <;> rfl
@[simp] theorem State.cl_loadUnit (s : State) (u : UnitId) (a : Vector Vec4 16) (n : Nat) : (s.loadUnit u a n).cl = s.cl := by cases u <;> rfl
@[simp] theorem State.draw_loadUnit (s : State) (u : UnitId) (a : Vector Vec4 16) (n : Nat) : (s.loadUnit u a n).draw = s.draw := by cases u <;> rfl
@[simp] theorem State.daBuf_loadUnit (s : State) (u : UnitId) (a : Vector Vec4 16) (n : Nat) : (s.loadUnit u a n).daBuf = s.daBuf := by cases u <;> rfl
@[simp] theorem State.daN_loadUnit (s : State) (u : UnitId) (a : Vector Vec4 16) (n : Nat) : (s.loadUnit u a n).daN = s.daN := by cases u <;> rfl
@[simp] theorem State.defaultAttrs_loadUnit (s : State) (u : UnitId) (a : Vector Vec4 16) (n : Nat) : (s.loadUnit u a n).defaultAttrs = s.defaultAttrs := by cases u <;> rfl
@[simp] theorem State.immBuf_loadUnit (s : State) (u : UnitId) (a : Vector Vec4 16) (n : Nat) : (s.loadUnit u a n).immBuf = s.immBuf := by cases u <;> rfl
@[simp] theorem State.immN_loadUnit (s : State) (u : UnitId) (a : Vector Vec4 16) (n : Nat) : (s.loadUnit u a n).immN = s.immN := by cases u <;> rfl
@[simp] theorem State.immFirst_loadUnit (s : State) (u : UnitId) (a : Vector Vec4 16) (n : Nat) : (s.loadUnit u a n).immFirst = s.immFirst := by cases u <;> rfl
@[simp] theorem State.log_loadUnit (s : State) (u : UnitId) (a : Vector Vec4 16) (n : Nat) : (s.loadUnit u a n).log = s.log := by cases u <;> rfl
@[simp] theorem State.hostCalls_loadUnit (s : State) (u : UnitId) (a : Vector Vec4 16) (n : Nat) : (s.loadUnit u a n).hostCalls = s.hostCalls := by cases u <;> rfl
@[simp] theorem State.loader_loadUnit (s : State) (u : UnitId) (a : Vector Vec4 16) (n : Nat) : (s.loadUnit u a n).loader = s.loader := by cases u <;> rfl
@[simp] theorem State.fresh_loadUnit (s : State) (u : UnitId) (a : Vector Vec4 16) (n : Nat) : (s.loadUnit u a n).fresh = s.fresh := by cases u <;> rfl

/-! ### Units under `writeDest` -/

@[simp] theorem prog_writeDest (x : ShaderUnit) (d : Dest) (m : BitVec 4) (v : Vec4) : (writeDest x d m v).prog = x.prog := by cases d <;> rfl
@[simp] theorem swz_writeDest (x : ShaderUnit) (d : Dest) (m : BitVec 4) (v : Vec4) : (writeDest x d m v).swz = x.swz := by cases d <;> rfl
@[simp] theorem c_writeDest (x : ShaderUnit) (d : Dest) (m : BitVec 4) (v : Vec4) : (writeDest x d m v).c = x.c := by cases d <;> rfl
@[simp] theorem v_writeDest (x : ShaderUnit) (d : Dest) (m : BitVec 4) (v : Vec4) : (writeDest x d m v).v = x.v := by cases d <;> rfl
@[simp] theorem pc_writeDest (x : ShaderUnit) (d : Dest) (m : BitVec 4) (v : Vec4) : (writeDest x d m v).pc = x.pc := by cases d <;> rfl
@[simp] theorem a0x_writeDest (x : ShaderUnit) (d : Dest) (m : BitVec 4) (v : Vec4) : (writeDest x d m v).a0x = x.a0x := by cases d <;> rfl
@[simp] theorem a0y_writeDest (x : ShaderUnit) (d : Dest) (m : BitVec 4) (v : Vec4) : (writeDest x d m v).a0y = x.a0y := by cases d <;> rfl
@[simp] theorem al_writeDest (x : ShaderUnit) (d : Dest) (m : BitVec 4) (v : Vec4) : (writeDest x d m v).al = x.al := by cases d <;> rfl
@[simp] theorem ccx_writeDest (x : ShaderUnit) (d : Dest) (m : BitVec 4) (v : Vec4) : (writeDest x d m v).ccx = x.ccx := by cases d <;> rfl
@[simp] theorem ccy_writeDest (x : ShaderUnit) (d : Dest) (m : BitVec 4) (v : Vec4) : (writeDest x d m v).ccy = x.ccy := by cases d <;> rfl
@[simp] theorem stk_writeDest (x : ShaderUnit) (d : Dest) (m : BitVec 4) (v : Vec4) : (writeDest x d m v).stk = x.stk := by cases d <;> rfl
@[simp] theorem run_writeDest (x : ShaderUnit) (d : Dest) (m : BitVec 4) (v : Vec4) : (writeDest x d m v).run = x.run := by cases d <;> rfl
@[simp] theorem fuBuf_writeDest (x : ShaderUnit) (d : Dest) (m : BitVec 4) (v : Vec4) : (writeDest x d m v).fuBuf = x.fuBuf := by cases d <;> rfl
@[simp] theorem fuN_writeDest (x : ShaderUnit) (d : Dest) (m : BitVec 4) (v : Vec4) : (writeDest x d m v).fuN = x.fuN := by cases d <;> rfl
@[simp] theorem o_writeDest_r (x : ShaderUnit) (n : Fin 16) (m : BitVec 4) (v : Vec4) : (writeDest x (.r n) m v).o = x.o := rfl
@[simp] theorem r_writeDest_o (x : ShaderUnit) (n : Fin 16) (m : BitVec 4) (v : Vec4) : (writeDest x (.o n) m v).r = x.r := rfl
@[simp] theorem o_writeDest_o (x : ShaderUnit) (n : Fin 16) (m : BitVec 4) (v : Vec4) :
    (writeDest x (.o n) m v).o = x.o.set n.val (mergeVec m x.o[n] v) n.isLt := rfl
@[simp] theorem r_writeDest_r (x : ShaderUnit) (n : Fin 16) (m : BitVec 4) (v : Vec4) :
    (writeDest x (.r n) m v).r = x.r.set n.val (mergeVec m x.r[n] v) n.isLt := rfl

/-! ### Units under one firing of the frame check -/

@[simp] theorem prog_fireFrame (x : ShaderUnit) (f : Frame) (l : List Frame) : (fireFrame x f l).prog = x.prog := by unfold fireFrame; split <;> rfl
@[simp] theorem swz_fireFrame (x : ShaderUnit) (f : Frame) (l : List Frame) : (fireFrame x f l).swz = x.swz := by unfold fireFrame; split <;> rfl
@[simp] theorem c_fireFrame (x : ShaderUnit) (f : Frame) (l : List Frame) : (fireFrame x f l).c = x.c := by unfold fireFrame; split <;> rfl
@[simp] theorem v_fireFrame (x : ShaderUnit) (f : Frame) (l : List Frame) : (fireFrame x f l).v = x.v := by unfold fireFrame; split <;> rfl
@[simp] theorem o_fireFrame (x : ShaderUnit) (f : Frame) (l : List Frame) : (fireFrame x f l).o = x.o := by unfold fireFrame; split <;> rfl
@[simp] theorem r_fireFrame (x : ShaderUnit) (f : Frame) (l : List Frame) : (fireFrame x f l).r = x.r := by unfold fireFrame; split <;> rfl
@[simp] theorem a0x_fireFrame (x : ShaderUnit) (f : Frame) (l : List Frame) : (fireFrame x f l).a0x = x.a0x := by unfold fireFrame; split <;> rfl
@[simp] theorem a0y_fireFrame (x : ShaderUnit) (f : Frame) (l : List Frame) : (fireFrame x f l).a0y = x.a0y := by unfold fireFrame; split <;> rfl
@[simp] theorem ccx_fireFrame (x : ShaderUnit) (f : Frame) (l : List Frame) : (fireFrame x f l).ccx = x.ccx := by unfold fireFrame; split <;> rfl
@[simp] theorem ccy_fireFrame (x : ShaderUnit) (f : Frame) (l : List Frame) : (fireFrame x f l).ccy = x.ccy := by unfold fireFrame; split <;> rfl
@[simp] theorem run_fireFrame (x : ShaderUnit) (f : Frame) (l : List Frame) : (fireFrame x f l).run = x.run := by unfold fireFrame; split <;> rfl
@[simp] theorem fuBuf_fireFrame (x : ShaderUnit) (f : Frame) (l : List Frame) : (fireFrame x f l).fuBuf = x.fuBuf := by unfold fireFrame; split <;> rfl
@[simp] theorem fuN_fireFrame (x : ShaderUnit) (f : Frame) (l : List Frame) : (fireFrame x f l).fuN = x.fuN := by unfold fireFrame; split <;> rfl

/-! ### Units under the frame check -/

@[simp] theorem prog_frameRounds (n : Nat) (x : ShaderUnit) : (frameRounds n x).prog = x.prog := by
  induction n generalizing x with
  | zero => rfl
  | succ n ih => unfold frameRounds; split <;> try rfl
                 split <;> simp [*]
@[simp] theorem prog_frameCheck (x : ShaderUnit) : (frameCheck x).prog = x.prog := prog_frameRounds _ x
@[simp] theorem swz_frameRounds (n : Nat) (x : ShaderUnit) : (frameRounds n x).swz = x.swz := by
  induction n generalizing x with
  | zero => rfl
  | succ n ih => unfold frameRounds; split <;> try rfl
                 split <;> simp [*]
@[simp] theorem swz_frameCheck (x : ShaderUnit) : (frameCheck x).swz = x.swz := swz_frameRounds _ x
@[simp] theorem c_frameRounds (n : Nat) (x : ShaderUnit) : (frameRounds n x).c = x.c := by
  induction n generalizing x with
  | zero => rfl
  | succ n ih => unfold frameRounds; split <;> try rfl
                 split <;> simp [*]
@[simp] theorem c_frameCheck (x : ShaderUnit) : (frameCheck x).c = x.c := c_frameRounds _ x
@[simp] theorem v_frameRounds (n : Nat) (x : ShaderUnit) : (frameRounds n x).v = x.v := by
  induction n generalizing x with
  | zero => rfl
  | succ n ih => unfold frameRounds; split <;> try rfl
                 split <;> simp [*]
@[simp] theorem v_frameCheck (x : ShaderUnit) : (frameCheck x).v = x.v := v_frameRounds _ x
@[simp] theorem o_frameRounds (n : Nat) (x : ShaderUnit) : (frameRounds n x).o = x.o := by
  induction n generalizing x with
  | zero => rfl
  | succ n ih => unfold frameRounds; split <;> try rfl
                 split <;> simp [*]
@[simp] theorem o_frameCheck (x : ShaderUnit) : (frameCheck x).o = x.o := o_frameRounds _ x
@[simp] theorem r_frameRounds (n : Nat) (x : ShaderUnit) : (frameRounds n x).r = x.r := by
  induction n generalizing x with
  | zero => rfl
  | succ n ih => unfold frameRounds; split <;> try rfl
                 split <;> simp [*]
@[simp] theorem r_frameCheck (x : ShaderUnit) : (frameCheck x).r = x.r := r_frameRounds _ x
@[simp] theorem a0x_frameRounds (n : Nat) (x : ShaderUnit) : (frameRounds n x).a0x = x.a0x := by
  induction n generalizing x with
  | zero => rfl
  | succ n ih => unfold frameRounds; split <;> try rfl
                 split <;> simp [*]
@[simp] theorem a0x_frameCheck (x : ShaderUnit) : (frameCheck x).a0x = x.a0x := a0x_frameRounds _ x
@[simp] theorem a0y_frameRounds (n : Nat) (x : ShaderUnit) : (frameRounds n x).a0y = x.a0y := by
  induction n generalizing x with
  | zero => rfl
  | succ n ih => unfold frameRounds; split <;> try rfl
                 split <;> simp [*]
@[simp] theorem a0y_frameCheck (x : ShaderUnit) : (frameCheck x).a0y = x.a0y := a0y_frameRounds _ x
@[simp] theorem ccx_frameRounds (n : Nat) (x : ShaderUnit) : (frameRounds n x).ccx = x.ccx := by
  induction n generalizing x with
  | zero => rfl
  | succ n ih => unfold frameRounds; split <;> try rfl
                 split <;> simp [*]
@[simp] theorem ccx_frameCheck (x : ShaderUnit) : (frameCheck x).ccx = x.ccx := ccx_frameRounds _ x
@[simp] theorem ccy_frameRounds (n : Nat) (x : ShaderUnit) : (frameRounds n x).ccy = x.ccy := by
  induction n generalizing x with
  | zero => rfl
  | succ n ih => unfold frameRounds; split <;> try rfl
                 split <;> simp [*]
@[simp] theorem ccy_frameCheck (x : ShaderUnit) : (frameCheck x).ccy = x.ccy := ccy_frameRounds _ x
@[simp] theorem run_frameRounds (n : Nat) (x : ShaderUnit) : (frameRounds n x).run = x.run := by
  induction n generalizing x with
  | zero => rfl
  | succ n ih => unfold frameRounds; split <;> try rfl
                 split <;> simp [*]
@[simp] theorem run_frameCheck (x : ShaderUnit) : (frameCheck x).run = x.run := run_frameRounds _ x
@[simp] theorem fuBuf_frameRounds (n : Nat) (x : ShaderUnit) : (frameRounds n x).fuBuf = x.fuBuf := by
  induction n generalizing x with
  | zero => rfl
  | succ n ih => unfold frameRounds; split <;> try rfl
                 split <;> simp [*]
@[simp] theorem fuBuf_frameCheck (x : ShaderUnit) : (frameCheck x).fuBuf = x.fuBuf := fuBuf_frameRounds _ x
@[simp] theorem fuN_frameRounds (n : Nat) (x : ShaderUnit) : (frameRounds n x).fuN = x.fuN := by
  induction n generalizing x with
  | zero => rfl
  | succ n ih => unfold frameRounds; split <;> try rfl
                 split <;> simp [*]
@[simp] theorem fuN_frameCheck (x : ShaderUnit) : (frameCheck x).fuN = x.fuN := fuN_frameRounds _ x

@[simp] theorem State.cur_frameChecked (s : State) : s.frameChecked.cur = s.cur :=
  State.cur_setCur s _ (run_frameCheck _)
@[simp] theorem State.curUnit_frameChecked (s : State) : s.frameChecked.curUnit = frameCheck s.curUnit :=
  State.curUnit_setCur s _ (run_frameCheck _)
@[simp] theorem State.em_frameChecked (s : State) : s.frameChecked.em = s.em := State.em_setCur s _
@[simp] theorem State.gp_frameChecked (s : State) : s.frameChecked.gp = s.gp := State.gp_setCur s _
@[simp] theorem State.vout_frameChecked (s : State) : s.frameChecked.vout = s.vout := State.vout_setCur s _
@[simp] theorem State.pa_frameChecked (s : State) : s.frameChecked.pa = s.pa := State.pa_setCur s _
@[simp] theorem State.tri_frameChecked (s : State) : s.frameChecked.tri = s.tri := State.tri_setCur s _
@[simp] theorem State.irq_frameChecked (s : State) : s.frameChecked.irq = s.irq := State.irq_setCur s _
@[simp] theorem State.hreg_frameChecked (s : State) : s.frameChecked.hreg = s.hreg := State.hreg_setCur s _
@[simp] theorem State.guest_frameChecked (s : State) : s.frameChecked.guest = s.guest := State.guest_setCur s _
@[simp] theorem State.cl_frameChecked (s : State) : s.frameChecked.cl = s.cl := State.cl_setCur s _
@[simp] theorem State.draw_frameChecked (s : State) : s.frameChecked.draw = s.draw := State.draw_setCur s _
@[simp] theorem State.daBuf_frameChecked (s : State) : s.frameChecked.daBuf = s.daBuf := State.daBuf_setCur s _
@[simp] theorem State.daN_frameChecked (s : State) : s.frameChecked.daN = s.daN := State.daN_setCur s _
@[simp] theorem State.defaultAttrs_frameChecked (s : State) : s.frameChecked.defaultAttrs = s.defaultAttrs := State.defaultAttrs_setCur s _
@[simp] theorem State.immBuf_frameChecked (s : State) : s.frameChecked.immBuf = s.immBuf := State.immBuf_setCur s _
@[simp] theorem State.immN_frameChecked (s : State) : s.frameChecked.immN = s.immN := State.immN_setCur s _
@[simp] theorem State.immFirst_frameChecked (s : State) : s.frameChecked.immFirst = s.immFirst := State.immFirst_setCur s _
@[simp] theorem State.log_frameChecked (s : State) : s.frameChecked.log = s.log := State.log_setCur s _
@[simp] theorem State.hostCalls_frameChecked (s : State) : s.frameChecked.hostCalls = s.hostCalls := State.hostCalls_setCur s _
@[simp] theorem State.loader_frameChecked (s : State) : s.frameChecked.loader = s.loader := State.loader_setCur s _
@[simp] theorem State.fresh_frameChecked (s : State) : s.frameChecked.fresh = s.fresh := State.fresh_setCur s _

end Sys2Proof.Machine
end

