-- ==== Sys2Proof/Laws/Store.lean ====
section
/-! SUPPORT. The stores of Machine/Ops.lean: read after write, and every operation keeps the canonical form. -/

namespace Sys2Proof.Machine

variable {α : Type}

/-! ### Read after write -/

@[simp] theorem storeRead_storeWrite_same (l : List (Nat × α)) (k : Nat) (x : α) :
    storeRead (storeWrite l k x) k = some x := by
  induction l with
  | nil => simp [storeWrite, storeRead]
  | cons p rest ih =>
    obtain ⟨a, y⟩ := p
    simp only [storeWrite]
    split
    · simp [storeRead]
    · split
      · simp [storeRead]
      · rw [storeRead, if_neg (by omega), ih]

theorem storeRead_storeWrite_other (l : List (Nat × α)) (k j : Nat) (x : α) (h : j ≠ k) :
    storeRead (storeWrite l k x) j = storeRead l j := by
  induction l with
  | nil => simp [storeWrite, storeRead, Ne.symm h]
  | cons p rest ih =>
    obtain ⟨a, y⟩ := p
    simp only [storeWrite]
    split
    · simp [storeRead, Ne.symm h]
    · split
      · next _ e => subst e; simp [storeRead, Ne.symm h]
      · simp [storeRead, ih]

theorem storeRead_storeErase_other (l : List (Nat × α)) (k j : Nat) (h : j ≠ k) :
    storeRead (storeErase l k) j = storeRead l j := by
  induction l with
  | nil => rfl
  | cons p rest ih =>
    obtain ⟨a, y⟩ := p
    simp only [storeErase]
    split
    · next e => subst e; simp [storeRead, Ne.symm h]
    · simp [storeRead, ih]

/-- A number below every listed one is not listed. -/
theorem storeRead_eq_none_of_lt (l : List (Nat × α)) (k : Nat) (h : ∀ p ∈ l, k < p.1) : storeRead l k = none := by
  induction l with
  | nil => rfl
  | cons p rest ih =>
    obtain ⟨a, y⟩ := p
    have ha : k < a := h (a, y) (by simp)
    rw [storeRead, if_neg (by omega)]
    exact ih fun q hq => h q (by simp [hq])

theorem storeRead_storeErase_same (l : List (Nat × α)) (k : Nat) (h : StoreRising l) :
    storeRead (storeErase l k) k = none := by
  induction l with
  | nil => rfl
  | cons p rest ih =>
    obtain ⟨a, y⟩ := p
    obtain ⟨ha, hr⟩ := List.pairwise_cons.mp h
    simp only [storeErase]
    split
    · next e => subst e; exact storeRead_eq_none_of_lt rest a ha
    · next e => rw [storeRead, if_neg e]; exact ih hr

/-! ### What a write and an erasure list -/

theorem mem_storeWrite (l : List (Nat × α)) (k : Nat) (x : α) (p : Nat × α) (h : p ∈ storeWrite l k x) :
    p = (k, x) ∨ p ∈ l := by
  induction l with
  | nil => simpa [storeWrite] using h
  | cons q rest ih =>
    obtain ⟨a, y⟩ := q
    simp only [storeWrite] at h
    split at h
    · simpa using h
    · split at h
      · rcases List.mem_cons.mp h with h | h
        · exact .inl h
        · exact .inr (List.mem_cons_of_mem _ h)
      · rcases List.mem_cons.mp h with h | h
        · exact .inr (h ▸ List.mem_cons_self)
        · exact (ih h).imp_right (List.mem_cons_of_mem _)

theorem mem_storeErase (l : List (Nat × α)) (k : Nat) (p : Nat × α) (h : p ∈ storeErase l k) : p ∈ l := by
  induction l with
  | nil => exact h
  | cons q rest ih =>
    obtain ⟨a, y⟩ := q
    simp only [storeErase] at h
    split at h
    · exact List.mem_cons_of_mem _ h
    · rcases List.mem_cons.mp h with h | h
      · exact h ▸ List.mem_cons_self
      · exact List.mem_cons_of_mem _ (ih h)

/-! ### The canonical form is kept -/

theorem storeWrite_rising (l : List (Nat × α)) (k : Nat) (x : α) (h : StoreRising l) :
    StoreRising (storeWrite l k x) := by
  induction l with
  | nil => simp [storeWrite, StoreRising]
  | cons p rest ih =>
    obtain ⟨a, y⟩ := p
    obtain ⟨ha, hr⟩ := List.pairwise_cons.mp h
    simp only [storeWrite]
    split
    · next hk =>
      refine List.pairwise_cons.mpr ⟨fun q hq => ?_, h⟩
      rcases List.mem_cons.mp hq with rfl | hq
      · exact hk
      · exact Nat.lt_trans hk (ha q hq)
    · split
      · next e => subst e; exact List.pairwise_cons.mpr ⟨ha, hr⟩
      · refine List.pairwise_cons.mpr ⟨fun q hq => ?_, ih hr⟩
        rcases mem_storeWrite rest k x q hq with rfl | hq
        · show a < k
          omega
        · exact ha q hq

theorem storeErase_rising (l : List (Nat × α)) (k : Nat) (h : StoreRising l) : StoreRising (storeErase l k) := by
  induction l with
  | nil => exact h
  | cons p rest ih =>
    obtain ⟨a, y⟩ := p
    obtain ⟨ha, hr⟩ := List.pairwise_cons.mp h
    simp only [storeErase]
    split
    · exact hr
    · exact List.pairwise_cons.mpr ⟨fun q hq => ha q (mem_storeErase rest k q hq), ih hr⟩

/-- An erasure leaves nothing listed at its number. -/
theorem storeErase_ne (l : List (Nat × α)) (k : Nat) (h : StoreRising l) (p : Nat × α) (hp : p ∈ storeErase l k) :
    p.1 ≠ k := by
  induction l with
  | nil => cases hp
  | cons q rest ih =>
    obtain ⟨a, y⟩ := q
    obtain ⟨ha, hr⟩ := List.pairwise_cons.mp h
    simp only [storeErase] at hp
    split at hp
    · next e => subst e; exact Nat.ne_of_gt (ha p hp)
    · next e =>
      rcases List.mem_cons.mp hp with rfl | hp
      · exact e
      · exact ih hr hp

/-! ### Guest memory -/

theorem memWriteByte_wf (m : Memory) (a : Nat) (b : Byte) (h : Memory.wf m) : Memory.wf (memWriteByte m a b) :=
  storeWrite_rising m a b h

theorem memWriteWord_wf (m : Memory) (a : Nat) (w : Word) (h : Memory.wf m) : Memory.wf (memWriteWord m a w) := by
  unfold memWriteWord
  exact memWriteByte_wf _ _ _ (memWriteByte_wf _ _ _ (memWriteByte_wf _ _ _ (memWriteByte_wf _ _ _ h)))

theorem reset_guest_wf : Memory.wf State.reset.guest := List.Pairwise.nil

@[simp] theorem memReadByte_memWriteByte_same (m : Memory) (a : Nat) (b : Byte) :
    memReadByte (memWriteByte m a b) a = some b :=
  storeRead_storeWrite_same m a b

theorem memReadByte_memWriteByte_other (m : Memory) (a k : Nat) (b : Byte) (h : k ≠ a) :
    memReadByte (memWriteByte m a b) k = memReadByte m k :=
  storeRead_storeWrite_other m a k b h

/-! ### Host registers -/

theorem hregWrite_canonical (s : State) (id : Nat) (w : Word) (h : HregCanonical s.hreg) :
    HregCanonical (s.hregWrite id w).hreg := by
  unfold State.hregWrite
  dsimp only
  split
  · exact ⟨storeErase_rising _ _ h.1, fun p hp => h.2 p (mem_storeErase _ _ p hp)⟩
  · next e =>
    refine ⟨storeWrite_rising _ _ _ h.1, fun p hp => ?_⟩
    rcases mem_storeWrite _ _ _ p hp with rfl | hp
    · exact e
    · exact h.2 p hp

theorem reset_hreg_canonical : HregCanonical State.reset.hreg := ⟨List.Pairwise.nil, fun _ hp => nomatch hp⟩

/-- A host register reads as it was written. -/
theorem hregRead_hregWrite_same (s : State) (id : Nat) (w : Word) (h : HregCanonical s.hreg) :
    (s.hregWrite id w).hregRead id = w := by
  unfold State.hregRead State.hregWrite
  dsimp only
  split
  · next e => rw [storeRead_storeErase_same _ _ h.1, e]; rfl
  · simp

/-- The other host registers read as before. -/
theorem hregRead_hregWrite_other (s : State) (id k : Nat) (w : Word) (h : k ≠ id) :
    (s.hregWrite id w).hregRead k = s.hregRead k := by
  unfold State.hregRead State.hregWrite
  dsimp only
  split
  · rw [storeRead_storeErase_other _ _ _ h]
  · rw [storeRead_storeWrite_other _ _ _ _ h]

/-- What a register reads as depends on the register file alone. -/
theorem hregRead_congr (s t : State) (id : Nat) (h : s.hreg = t.hreg) : s.hregRead id = t.hregRead id := by
  unfold State.hregRead; rw [h]

end Sys2Proof.Machine
end

