-- ==== Sys2Proof/Laws/Ops.lean ====
section
/-! SUPPORT. One lemma for each shared operation that says once everything it can do: what a next state of it
is, and when it stops. Later proofs cite these and do not unfold the operations. -/

namespace Sys2Proof.Machine

/-! ### Sequencing -/

@[simp] theorem seqR_next (s : State) (f : State → Result) : seqR (.next s) f = f s := rfl
@[simp] theorem seqR_fault (e : Fault) (f : State → Result) : seqR (.fault e) f = .fault e := rfl
@[simp] theorem seqR_refused (e : Refusal) (f : State → Result) : seqR (.refused e) f = .refused e := rfl

/-- A sequence answers a next state exactly when both parts do. -/
theorem seqR_eq_next (r : Result) (f : State → Result) (t : State) :
    seqR r f = .next t ↔ ∃ s, r = .next s ∧ f s = .next t := by
  cases r <;> simp [seqR]

/-! ### The executing unit -/

theorem State.unit_cur (s : State) : s.unit s.cur = s.curUnit := rfl

/-- The executing unit is the geometry unit exactly when that runs. -/
theorem State.cur_eq_gs (s : State) : s.cur = .gs ↔ s.gs.run = .running := by
  unfold State.cur; split <;> simp_all

theorem State.cur_eq_vs (s : State) : s.cur = .vs ↔ s.gs.run ≠ .running := by
  unfold State.cur; split <;> simp_all

/-- The later replacement of the executing unit is the one that counts. -/
theorem State.setCur_setCur (s : State) (x y : ShaderUnit) (h : x.run = s.curUnit.run) :
    (s.setCur x).setCur y = s.setCur y := by
  unfold State.setCur at *
  rw [show (s.setUnit s.cur x).cur = s.cur from State.cur_setCur s x h]
  cases s.cur <;> rfl

/-! ### Arithmetic instructions -/

/-- An arithmetic instruction with a destination always completes: it writes the enabled components of its
destination and advances, in the executing unit alone (R130, R133). -/
theorem finish_eq (s : State) (dest : Dest) (d : Word) (val : Vec4) :
    s.finish dest d val =
      .next (s.setCur { writeDest s.curUnit dest (descMask d) val with pc := s.curUnit.pc + 1 }) := rfl

theorem runFormat1_eq (f : Vec4 → Vec4 → Vec4) (dest : Dest) (idx : AddrIdx) (src1 : WideSrc) (src2 : NarrowSrc)
    (desc : BitVec 7) (s : State) :
    runFormat1 f dest idx src1 src2 desc s = s.finish dest (s.descriptor desc.toNat)
      (f (source1 (s.descriptor desc.toNat) (readWide s.curUnit idx src1))
        (source2 (s.descriptor desc.toNat) (readNarrow s.curUnit src2))) := rfl

theorem runFormat1i_eq (f : Vec4 → Vec4 → Vec4) (dest : Dest) (idx : AddrIdx) (src1 : NarrowSrc) (src2 : WideSrc)
    (desc : BitVec 7) (s : State) :
    runFormat1i f dest idx src1 src2 desc s = s.finish dest (s.descriptor desc.toNat)
      (f (source1 (s.descriptor desc.toNat) (readNarrow s.curUnit src1))
        (source2 (s.descriptor desc.toNat) (readWide s.curUnit idx src2))) := rfl

theorem runFormat1u_eq (f : Vec4 → Vec4) (dest : Dest) (idx : AddrIdx) (src1 : WideSrc) (desc : BitVec 7)
    (s : State) :
    runFormat1u f dest idx src1 desc s = s.finish dest (s.descriptor desc.toNat)
      (f (source1 (s.descriptor desc.toNat) (readWide s.curUnit idx src1))) := rfl

theorem runFormat5_eq (f : Vec4 → Vec4 → Vec4 → Vec4) (dest : Dest) (idx : AddrIdx) (src1 : NarrowSrc)
    (src2 : WideSrc) (src3 : NarrowSrc) (desc : BitVec 5) (s : State) :
    runFormat5 f dest idx src1 src2 src3 desc s = s.finish dest (s.descriptor desc.toNat)
      (f (source1 (s.descriptor desc.toNat) (readNarrow s.curUnit src1))
        (source2 (s.descriptor desc.toNat) (readWide s.curUnit idx src2))
        (source3 (s.descriptor desc.toNat) (readNarrow s.curUnit src3))) := rfl

theorem runFormat5i_eq (f : Vec4 → Vec4 → Vec4 → Vec4) (dest : Dest) (idx : AddrIdx) (src1 src2 : NarrowSrc)
    (src3 : WideSrc) (desc : BitVec 5) (s : State) :
    runFormat5i f dest idx src1 src2 src3 desc s = s.finish dest (s.descriptor desc.toNat)
      (f (source1 (s.descriptor desc.toNat) (readNarrow s.curUnit src1))
        (source2 (s.descriptor desc.toNat) (readNarrow s.curUnit src2))
        (source3 (s.descriptor desc.toNat) (readWide s.curUnit idx src3))) := rfl

/-! ### Anomalies -/

theorem skipUnimplemented_eq (s : State) (opcode : Nat) :
    s.skipUnimplemented opcode = .next (s.raise (.unimplementedOpcode s.curUnit.pc opcode)).advance := rfl

theorem skipUnknown_eq (s : State) (opcode : Nat) :
    s.skipUnknown opcode = .next (s.raise (.unknownOpcode s.curUnit.pc opcode)).advance := rfl

/-- Recording a list of anomalies appends them to the log and changes nothing else. -/
theorem foldl_raise (l : List Anomaly) (s : State) :
    l.foldl State.raise s = { s with log := s.log ++ l } := by
  induction l generalizing s with
  | nil => simp
  | cons a l ih => rw [List.foldl_cons, ih]; simp [State.raise]

/-! ### The call stack -/

/-- A push answers a next state exactly when there is room, and then it is this one (R172). -/
theorem pushFrame_eq_next (s t : State) (f : Frame) (a : Nat) :
    s.pushFrame f a = .next t ↔ s.curUnit.stk.length < Config.callStackDepth ∧
      t = s.setCur { s.curUnit with stk := f :: s.curUnit.stk, pc := a } := by
  unfold State.pushFrame
  split <;> simp_all [eq_comm]

/-- A push stops only with the overflow fault, and only on a full stack (R172, U3). -/
theorem pushFrame_stops (s : State) (f : Frame) (a : Nat) (h : ¬ s.curUnit.stk.length < Config.callStackDepth) :
    s.pushFrame f a = .fault .callStackOverflow := by
  unfold State.pushFrame; rw [if_neg h]

theorem takeIf_eq (s : State) (c : Bool) (target : BitVec 12) (num : BitVec 8) :
    s.takeIf c target num = s.pushFrame
      (plainFrame (if c then target.toNat else target.toNat + num.toNat) (target.toNat + num.toNat)
        (if c then s.curUnit.pc + 1 else target.toNat))
      (if c then s.curUnit.pc + 1 else target.toNat) := by
  cases c <;> rfl

/-- LOOP pushes its frame, sets AL and advances, or stops on a full stack (R183, R172). -/
theorem execLoop_eq (n : Fin 4) (target : BitVec 12) (s : State) :
    execLoop n target s =
      if s.curUnit.stk.length < Config.callStackDepth then
        .next (s.setCur { s.curUnit with
          al := (intY (s.intUniform s.cur n)).setWidth 32
          stk := loopFrame s.curUnit (s.intUniform s.cur n) target :: s.curUnit.stk
          pc := s.curUnit.pc + 1 })
      else .fault .callStackOverflow := by
  unfold execLoop State.pushFrame
  dsimp only
  rw [State.curUnit_setCur, State.setCur_setCur] <;> rfl

/-- One round of the frame check (R171). -/
theorem frameRounds_succ (n : Nat) (x : ShaderUnit) :
    frameRounds (n + 1) x =
      match x.stk with
      | [] => x
      | f :: rest => if x.pc = f.endAddr then frameRounds n (fireFrame x f rest) else x := rfl

/-- Firing a frame uses up one round of the fuel. -/
theorem frameFuel_fireFrame (x : ShaderUnit) (f : Frame) (rest : List Frame) :
    frameFuel (fireFrame x f rest).stk + 1 = frameFuel (f :: rest) ∨
      frameFuel (fireFrame x f rest).stk + (f.count.toNat + 1) = frameFuel (f :: rest) := by
  unfold fireFrame frameFuel
  dsimp only
  split
  · right; simp only [List.map_cons, List.sum_cons]; omega
  · next h =>
    left
    have h1 : f.count.toNat ≠ 0 := fun e => h (BitVec.eq_of_toNat_eq (by simpa using e))
    have h2 : (f.count - 1#8).toNat = f.count.toNat - 1 := by
      have := f.count.isLt
      rw [BitVec.toNat_sub]
      simp only [BitVec.toNat_ofNat]
      omega
    simp only [List.map_cons, List.sum_cons, h2]
    omega

/-- A firing keeps the depth of the call stack or lowers it by one. -/
theorem length_stk_fireFrame (x : ShaderUnit) (f : Frame) (rest : List Frame) :
    (fireFrame x f rest).stk.length ≤ rest.length + 1 := by
  unfold fireFrame; dsimp only; split <;> simp

/-- The frame check never deepens the call stack. -/
theorem length_stk_frameRounds (n : Nat) (x : ShaderUnit) : (frameRounds n x).stk.length ≤ x.stk.length := by
  induction n generalizing x with
  | zero => exact Nat.le_refl _
  | succ n ih =>
    rw [frameRounds_succ]
    split
    · exact Nat.le_refl _
    · next f rest h =>
      split
      · exact Nat.le_trans (ih _) (by rw [h]; exact length_stk_fireFrame x f rest)
      · exact Nat.le_refl _

theorem length_stk_frameCheck (x : ShaderUnit) : (frameCheck x).stk.length ≤ x.stk.length :=
  length_stk_frameRounds _ x

/-! ### The geometry pipeline -/

/-- A write of float uniforms of the geometry unit answers a next state exactly when it stays below c96
(R217, U16). -/
theorem writeGsUniforms_eq_next (s t : State) (k : Nat) (xs : List Vec4) :
    s.writeGsUniforms k xs = .next t ↔
      k + xs.length ≤ 96 ∧ t = { s with gs := { s.gs with c := writeFrom s.gs.c k xs } } := by
  unfold State.writeGsUniforms
  split
  · next h => exact ⟨fun e => ⟨h, by cases e; rfl⟩, fun e => by rw [e.2]⟩
  · next h => exact ⟨fun e => (nomatch e), fun e => absurd e.1 h⟩

@[simp] theorem length_attrList (free : Nat) (a : Vertex) (n : Nat) : (attrList free a n).length = n := by
  simp [attrList]

/-- Reconfigure answers a next state exactly when the pipeline is empty and the configuration is legal, and then
it changes the backend alone, beside the free-value counter (R210). -/
theorem reconfigure_eq_next (s t : State) :
    s.reconfigure = .next t ↔
      s.gp.isEmpty = true ∧ ∃ b, s.selectBackend = some b ∧ t = { s with gp := b, fresh := s.fresh + 64 } := by
  unfold State.reconfigure
  split
  · next h =>
    split
    · next b hb =>
      constructor
      · intro e; cases e; exact ⟨h, b, hb, rfl⟩
      · rintro ⟨-, c, hc, rfl⟩
        rw [hb] at hc; cases hc; rfl
    · next hb =>
      constructor
      · intro e; cases e
      · rintro ⟨-, c, hc, -⟩
        rw [hb] at hc; cases hc
  · next h => exact ⟨fun e => (nomatch e), fun e => absurd e.1 h⟩

/-- A submitted index is accepted only by a waiting VariablePrimitive backend and only if it is not 0 (R216). -/
theorem gpSubmitIndex_eq_next (s t : State) (n : BitVec 16) :
    s.gpSubmitIndex n = .next t ↔
      n ≠ 0#16 ∧ ∃ vsOut, s.gp = .variablePrim vsOut none ∧ t = { s with
        gs := { s.gs with c := s.gs.c.set 0 (Vec4.splat (f24FromF32 (f32OfNat n.toNat))) }
        gp := .variablePrim vsOut (some ⟨s.mainVertexNum, n.toNat, 1⟩) } := by
  unfold State.gpSubmitIndex
  split
  · next v h =>
    split
    · next h0 => exact ⟨fun e => (nomatch e), fun e => absurd h0 e.1⟩
    · next h0 =>
      constructor
      · intro e; cases e; exact ⟨h0, v, h, rfl⟩
      · rintro ⟨-, w, hw, rfl⟩
        rw [h] at hw; cases hw; rfl
  all_goals
    next h =>
      constructor
      · intro e; cases e
      · rintro ⟨-, w, hw, -⟩
        rw [h] at hw; cases hw

/-! ### The host port -/

@[simp] theorem getElem_loadedFile (a : Vector Vec4 16) (i : Fin 16) : (loadedFile a)[i] = loadedValue a[i] := by
  simp [loadedFile]

/-- A draw starts exactly when Reconfigure succeeds and the index protocol holds (R257); it takes the next
supply of the vertex loader. -/
theorem startDraw_eq_next (s t : State) (indexed : Bool) :
    s.startDraw indexed = .next t ↔ ∃ u, s.reconfigure = .next u ∧ (u.gp.needIndex && !indexed) = false ∧
      t = { u with loader := u.takeSupply.2, draw := some ⟨indexed, u.takeSupply.1⟩ } := by
  unfold State.startDraw
  rw [seqR_eq_next]
  constructor
  · rintro ⟨u, hu, h⟩
    split at h
    · cases h
    · next hn => exact ⟨u, hu, by simpa using hn, by cases h; rfl⟩
  · rintro ⟨u, hu, hn, rfl⟩
    exact ⟨u, hu, by simp [hn]⟩

/-- The supply that the input names comes first, each vertex as the block receives it (assumption 22). -/
theorem takeSupply_cons (s : State) (items : List LoaderVertex) (rest : List (List LoaderVertex))
    (h : s.loader = items :: rest) : s.takeSupply = (items.map LoaderVertex.received, rest) := by
  unfold State.takeSupply; rw [h]; rfl

/-- Every vertex that a draw takes has come in through `F24FromRaw` (R94, R258). -/
theorem mem_takeSupply (s : State) (item : LoaderVertex) (h : item ∈ s.takeSupply.1) :
    ∃ x : LoaderVertex, item = x.received := by
  obtain ⟨x, -, e⟩ := List.mem_map.mp h
  exact ⟨x, e.symm⟩

/-- A read of guest memory goes on exactly where the four bytes are mapped (R47). -/
theorem withGuestWord_eq_next (s t : State) (a : Nat) (f : Word → Result) :
    s.withGuestWord a f = .next t ↔ ∃ w, memReadWord s.guest a = some w ∧ f w = .next t := by
  unfold State.withGuestWord; split <;> simp_all

/-- A list starts exactly when its address and size are multiples of 8 (R240, R243). -/
theorem startList_eq_next (s t : State) (address size : Nat) :
    s.startList address size = .next t ↔
      (address % 8 = 0 ∧ size % 8 = 0) ∧ t = { s with cl := some ⟨address, size / 4, 0, none⟩ } := by
  unfold State.startList
  split
  · next h => exact ⟨fun e => ⟨h, by cases e; rfl⟩, fun e => by rw [e.2]⟩
  · next h => exact ⟨fun e => (nomatch e), fun e => absurd e.1 h⟩

/-- A sub-list trigger re-targets the cursor, unless extra words of its own command follow (R254, U13). -/
theorem triggerSublist_eq_next (s t : State) (n : Fin 2) :
    s.triggerSublist n = .next t ↔ (∀ c, s.cl = some c → c.burst = none) ∧
      t = { s with cl := some ⟨(s.hregRead (regSublistAddr n)).toNat * 8,
        (s.hregRead (regSublistSize n)).toNat * 2, 0, none⟩ } := by
  unfold State.triggerSublist
  split
  · next c hc =>
    cases hb : c.burst <;> simp [hb, hc, eq_comm]
  · next hc => simp [hc, eq_comm]

/-- An extra word completes exactly where it lies inside the list and is mapped and its register write
completes; the cursor moves after that write, on the list the walk is in by then (R240). -/
theorem extraWrite_eq_next (s t : State) (c : CmdWalk) (b : Burst) :
    s.extraWrite c b = .next t ↔ c.cur < c.len ∧ ∃ w, memReadWord s.guest (c.head + 4 * c.cur) = some w ∧
      ∃ x, State.writeReg { s with cl := some { c with burst := b.rest } } (if b.group then b.id + b.next else b.id) w b.mask =
        .next x ∧ t = x.cursorNext := by
  unfold State.extraWrite
  split
  · next h => simp only [withGuestWord_eq_next, seqR_eq_next, h, true_and, Host.Outcome.next.injEq, eq_comm (a := t)]
  · next h => exact ⟨fun e => (nomatch e), fun e => absurd e.1 h⟩

/-- The last extra word leaves no run, any other one a shorter run (R240). -/
theorem rest_eq (b : Burst) :
    b.rest = if b.left ≤ 1 then none else some { b with next := b.next + 1, left := b.left - 1 } := rfl

/-- A register write outside the file is recorded and dropped; inside, it stores the merged value and then has
the register's side effect (R244 to R246). -/
theorem writeReg_eq (s : State) (id : Nat) (value : Word) (mask : BitVec 4) :
    s.writeReg id value mask =
      if regInRange id then
        (s.hregWrite id (mergeMasked (s.hregRead id) value mask)).sideEffect (hostReg id)
          (mergeMasked (s.hregRead id) value mask)
      else .next (s.raise (.badRegisterId id)) := rfl

/-! ### The step -/

/-- A step of a running unit: out of range it faults, else it executes what it fetched (R170, U2). -/
theorem runUnit_eq_next (s t : State) :
    runUnit s = .next t ↔ ∃ w, s.frameChecked.fetch = some w ∧ exec (decodeWord w) s.frameChecked = .next t := by
  unfold runUnit; split <;> simp_all

theorem step_active (s : State) (h : s.gs.run = .running ∨ (s.gs.run = .idle ∧ s.vs.run = .running)) :
    step s = runUnit s := by
  unfold step
  rcases h with h | ⟨h, g⟩
  · rw [if_pos h]
  · rw [if_neg (by rw [h]; decide), if_neg (by rw [h]; decide), if_pos g]

theorem step_inactive (s : State) (h : s.gs.run ≠ .running) (g : s.gs.run = .halted ∨ s.vs.run ≠ .running) :
    step s = s.blockStep := by
  unfold step
  rw [if_neg h]
  split
  · rfl
  · next e => rw [if_neg (g.resolve_left e)]

end Sys2Proof.Machine
end

