-- ==== Sys2Proof/Laws/Exec.lean ====
section
/-! SUPPORT. What any instruction can do, said once: `exec_next_cases`. Proofs over all instructions cite it and do
not unfold a meaning. -/

namespace Sys2Proof.Machine

/-- What an instruction can do to the unit that executes it: it keeps the program state, the inputs and the host
port's buffer, goes on or halts, and keeps its call stack or pushes one frame where there is room. -/
structure UnitStep (x y : ShaderUnit) : Prop where
  prog : y.prog = x.prog
  swz : y.swz = x.swz
  c : y.c = x.c
  v : y.v = x.v
  fuBuf : y.fuBuf = x.fuBuf
  fuN : y.fuN = x.fuN
  run : y.run = x.run ∨ y.run = .halted
  stk : y.stk = x.stk ∨ ∃ f, y.stk = f :: x.stk ∧ x.stk.length < Config.callStackDepth

/-- `t` is `s` but for a step of the executing unit and anomalies added to the log. -/
def OnlyUnitAndLog (s t : State) : Prop :=
  ∃ x l, t = { s.setCur x with log := s.log ++ l } ∧ UnitStep s.curUnit x

theorem onlyUnitAndLog_setCur (s t : State) (x : ShaderUnit)
    (h : (Host.Outcome.next (s.setCur x) : Result) = .next t) (hx : UnitStep s.curUnit x) : OnlyUnitAndLog s t := by
  injection h with h
  exact ⟨x, [], by rw [← h]; cases hc : s.cur <;> simp [State.setCur, hc, State.setUnit], hx⟩

theorem onlyUnitAndLog_finish (s t : State) (dest : Dest) (d : Word) (val : Vec4) (h : s.finish dest d val = .next t) :
    OnlyUnitAndLog s t := by
  rw [finish_eq] at h
  exact onlyUnitAndLog_setCur s t _ h (by cases dest <;> constructor <;> simp [writeDest])

theorem onlyUnitAndLog_pushFrame (s t : State) (f : Frame) (a : Nat) (h : s.pushFrame f a = .next t) :
    OnlyUnitAndLog s t := by
  rw [pushFrame_eq_next] at h
  obtain ⟨h1, rfl⟩ := h
  exact onlyUnitAndLog_setCur s _ _ rfl ⟨rfl, rfl, rfl, rfl, rfl, rfl, .inl rfl, .inr ⟨f, rfl, h1⟩⟩

theorem onlyUnitAndLog_jump (s t : State) (a : Nat) (h : (Host.Outcome.next (s.jump a) : Result) = .next t) :
    OnlyUnitAndLog s t :=
  onlyUnitAndLog_setCur s t _ h ⟨rfl, rfl, rfl, rfl, rfl, rfl, .inl rfl, .inl rfl⟩

theorem onlyUnitAndLog_raise_advance (s t : State) (a : Anomaly)
    (h : (Host.Outcome.next (s.raise a).advance : Result) = .next t) : OnlyUnitAndLog s t := by
  injection h with h
  refine ⟨{ s.curUnit with pc := s.curUnit.pc + 1 }, [a], ?_, ⟨rfl, rfl, rfl, rfl, rfl, rfl, .inl rfl, .inl rfl⟩⟩
  rw [← h]
  by_cases hg : s.gs.run = .running <;>
    simp [State.advance, State.jump, State.raise, State.setCur, State.curUnit, State.cur, hg, State.setUnit, State.unit]

/-- What an instruction that completes has done: a step of the executing unit, with anomalies perhaps; or, on the
geometry unit, EMIT's and SETEMIT's write of the emitter and the FIFO (R196 to R199). -/
theorem exec_next_cases (i : Instr) (s t : State) (h : exec i s = .next t) :
    OnlyUnitAndLog s t ∨ (s.cur = .gs ∧
      ∃ em vs, t = { s with em := em, vout := s.vout ++ vs, gs := { s.gs with pc := s.gs.pc + 1 } }) := by
  cases i <;> simp only [exec] at h
  case emit =>
    right
    unfold execEmit at h
    split at h
    · next hc =>
      refine ⟨hc, ?_⟩
      split at h
      · next hx =>
        injection h with h
        have hg := (State.cur_eq_gs s).1 hc
        refine ⟨{ s.em with buf := s.em.buf.set s.em.vertexId.toNat s.curUnit.o hx }, if s.em.primEmit then
          emitEntries { s.em with buf := s.em.buf.set s.em.vertexId.toNat s.curUnit.o hx } (s.outMask .gs) else [], ?_⟩
        rw [← h]
        simp only [State.advance, State.jump, State.setCur, State.curUnit, State.cur, hg, if_true, State.setUnit,
          State.unit]
      · cases h
    · cases h
  case setemit v p w =>
    right
    unfold execSetemit at h
    split at h
    · next hc =>
      refine ⟨hc, ?_⟩
      cases h
      have hg := (State.cur_eq_gs s).1 hc
      refine ⟨{ s.em with vertexId := v, primEmit := p, winding := w }, [], ?_⟩
      simp only [State.advance, State.jump, State.setCur, State.curUnit, State.cur, hg, if_true, State.setUnit,
        State.unit, List.append_nil]
    · cases h
  all_goals left
  case mova => exact onlyUnitAndLog_setCur s t _ h ⟨rfl, rfl, rfl, rfl, rfl, rfl, .inl rfl, .inl rfl⟩
  case cmp =>
    unfold execCmp at h
    dsimp only at h
    rw [foldl_raise] at h
    injection h with h
    simp only [State.log_setCur] at h
    exact ⟨_, _, h.symm, ⟨rfl, rfl, rfl, rfl, rfl, rfl, .inl rfl, .inl rfl⟩⟩
  case endProg => exact onlyUnitAndLog_setCur s t _ h ⟨rfl, rfl, rfl, rfl, rfl, rfl, .inr rfl, .inl rfl⟩
  case call => exact onlyUnitAndLog_pushFrame _ _ _ _ h
  case callc => unfold execCallc at h; split at h; exact onlyUnitAndLog_pushFrame _ _ _ _ h; exact onlyUnitAndLog_jump _ _ _ h
  case callu => unfold execCallu at h; split at h; exact onlyUnitAndLog_pushFrame _ _ _ _ h; exact onlyUnitAndLog_jump _ _ _ h
  case ifu => unfold execIfu at h; rw [takeIf_eq] at h; exact onlyUnitAndLog_pushFrame _ _ _ _ h
  case ifc => unfold execIfc at h; rw [takeIf_eq] at h; exact onlyUnitAndLog_pushFrame _ _ _ _ h
  case loop =>
    rw [execLoop_eq] at h
    split at h
    · next hl => exact onlyUnitAndLog_setCur s t _ h ⟨rfl, rfl, rfl, rfl, rfl, rfl, .inl rfl, .inr ⟨_, rfl, hl⟩⟩
    · cases h
  case jmpc => unfold execJmpc at h; split at h <;> exact onlyUnitAndLog_jump _ _ _ h
  case jmpu => unfold execJmpu at h; split at h <;> exact onlyUnitAndLog_jump _ _ _ h
  case nop => exact onlyUnitAndLog_jump _ _ _ h
  all_goals first | exact onlyUnitAndLog_finish _ _ _ _ _ h | exact onlyUnitAndLog_raise_advance _ _ _ h

/-- The frame check changes the pc, AL and the call stack alone (R171). -/
theorem frameRounds_eq (n : Nat) (x : ShaderUnit) :
    ∃ pc al stk, frameRounds n x = { x with pc := pc, al := al, stk := stk } := by
  induction n generalizing x with
  | zero => exact ⟨_, _, _, rfl⟩
  | succ n ih =>
    rw [frameRounds_succ]
    split
    · exact ⟨_, _, _, rfl⟩
    · split
      · obtain ⟨a, b, c, e⟩ := ih (fireFrame x _ _)
        rw [e]; unfold fireFrame; dsimp only; split <;> exact ⟨_, _, _, rfl⟩
      · exact ⟨_, _, _, rfl⟩

end Sys2Proof.Machine
end

