-- ==== Sys2Proof/Laws/PerInstr.lean ====
section
/-! SUPPORT. The per-instruction family `OpcodeRow`: the word of a well-formed instruction has, under the mask
of its row of spec/opcode_table.json, the match of that row (30_encoding.md R78). -/

namespace Sys2Proof.Laws.OpcodeRow

/-- The match and the mask of the instruction's row. -/
def row : Instr → Word × Word
  | .add .. => (0x00000000#32, 0xFC000000#32)
  | .dp3 .. => (0x04000000#32, 0xFC000000#32)
  | .dp4 .. => (0x08000000#32, 0xFC000000#32)
  | .dph .. => (0x0C000000#32, 0xFC000000#32)
  | .dst .. => (0x10000000#32, 0xFC000000#32)
  | .ex2 .. => (0x14000000#32, 0xFC000000#32)
  | .lg2 .. => (0x18000000#32, 0xFC000000#32)
  | .lit .. => (0x1C000000#32, 0xFC000000#32)
  | .mul .. => (0x20000000#32, 0xFC000000#32)
  | .sge .. => (0x24000000#32, 0xFC000000#32)
  | .slt .. => (0x28000000#32, 0xFC000000#32)
  | .flr .. => (0x2C000000#32, 0xFC000000#32)
  | .max .. => (0x30000000#32, 0xFC000000#32)
  | .min .. => (0x34000000#32, 0xFC000000#32)
  | .rcp .. => (0x38000000#32, 0xFC000000#32)
  | .rsq .. => (0x3C000000#32, 0xFC000000#32)
  | .mova .. => (0x48000000#32, 0xFC000000#32)
  | .mov .. => (0x4C000000#32, 0xFC000000#32)
  | .dphi .. => (0x60000000#32, 0xFC000000#32)
  | .dsti .. => (0x64000000#32, 0xFC000000#32)
  | .sgei .. => (0x68000000#32, 0xFC000000#32)
  | .slti .. => (0x6C000000#32, 0xFC000000#32)
  | .brk => (0x80000000#32, 0xFC000000#32)
  | .nop => (0x84000000#32, 0xFC000000#32)
  | .endProg => (0x88000000#32, 0xFC000000#32)
  | .breakc .. => (0x8C000000#32, 0xFC000000#32)
  | .call .. => (0x90000000#32, 0xFC000000#32)
  | .callc .. => (0x94000000#32, 0xFC000000#32)
  | .callu .. => (0x98000000#32, 0xFC000000#32)
  | .ifu .. => (0x9C000000#32, 0xFC000000#32)
  | .ifc .. => (0xA0000000#32, 0xFC000000#32)
  | .loop .. => (0xA4000000#32, 0xFC000000#32)
  | .emit => (0xA8000000#32, 0xFC000000#32)
  | .setemit .. => (0xAC000000#32, 0xFC000000#32)
  | .jmpc .. => (0xB0000000#32, 0xFC000000#32)
  | .jmpu .. => (0xB4000000#32, 0xFC000000#32)
  | .cmp .. => (0xB8000000#32, 0xF8000000#32)
  | .madi .. => (0xC0000000#32, 0xE0000000#32)
  | .mad .. => (0xE0000000#32, 0xE0000000#32)
  | .unassigned10 => (0x40000000#32, 0xFC000000#32)
  | .unassigned11 => (0x44000000#32, 0xFC000000#32)
  | .unassigned14 => (0x50000000#32, 0xFC000000#32)
  | .unassigned15 => (0x54000000#32, 0xFC000000#32)
  | .unassigned16 => (0x58000000#32, 0xFC000000#32)
  | .unassigned17 => (0x5C000000#32, 0xFC000000#32)
  | .unassigned1C => (0x70000000#32, 0xFC000000#32)
  | .unassigned1D => (0x74000000#32, 0xFC000000#32)
  | .unassigned1E => (0x78000000#32, 0xFC000000#32)
  | .unassigned1F => (0x7C000000#32, 0xFC000000#32)

/-- The encoded word matches its row. -/
def Statement (i : Instr) : Prop := i.wellFormed = true → encodeWord i &&& (row i).2 = (row i).1

/-! ### Bounds of the fields -/

theorem destBits_lt (d : Dest) : destBits d < 32 := by cases d <;> simp only [destBits] <;> omega
theorem narrowBits_lt (s : NarrowSrc) : narrowBits s < 32 := by cases s <;> simp only [narrowBits] <;> omega
theorem idxBits_lt (i : AddrIdx) : idxBits i < 4 := by cases i <;> decide
theorem cmpBits_lt (c : CmpOp) : cmpBits c < 8 := by cases c <;> decide
theorem condBits_lt (c : CondOp) : condBits c < 4 := by cases c <;> decide
theorem wideBits_lt (s : WideSrc) (h : s.wellFormed = true) : wideBits s < 128 := by
  cases s with
  | v n => simp only [wideBits]; omega
  | r n => simp only [wideBits]; omega
  | c n =>
    have h' : n.toNat < 96 := by simpa [WideSrc.wellFormed, BitVec.lt_def] using h
    simp only [wideBits]; omega

/-! ### The top bits of a packed word -/

theorem and_top (k : Nat) (x mask : Word) (hm : mask = (BitVec.allOnes 32 >>> k) <<< k) :
    x &&& mask = (x >>> k) <<< k := by
  subst hm
  apply BitVec.eq_of_getLsbD_eq
  intro i hi
  by_cases h : i < k
  · simp [hi, h]
  · have e : k + (i - k) = i := by omega
    simp only [BitVec.getLsbD_and, BitVec.getLsbD_shiftLeft, BitVec.getLsbD_ushiftRight, BitVec.getLsbD_allOnes, e]
    simp [hi, h]

/-- A word `op * 2^k + r` with `r` below `2^k` has `op` above bit `k`. -/
theorem and_pack (k op r : Nat) (mask m : Word) (hr : r < 2 ^ k) (hmask : mask = (BitVec.allOnes 32 >>> k) <<< k)
    (hop : op * 2 ^ k + 2 ^ k ≤ 2 ^ 32) (hmatch : m = BitVec.ofNat 32 (op * 2 ^ k)) :
    BitVec.ofNat 32 (op * 2 ^ k + r) &&& mask = m := by
  rw [and_top k _ _ hmask, hmatch]
  apply BitVec.eq_of_toNat_eq
  have h1 : (op * 2 ^ k + r) / 2 ^ k = op := by
    rw [Nat.mul_comm, Nat.mul_add_div (Nat.two_pow_pos k), Nat.div_eq_of_lt hr, Nat.add_zero]
  rw [BitVec.toNat_shiftLeft, BitVec.toNat_ushiftRight, BitVec.toNat_ofNat, BitVec.toNat_ofNat,
    Nat.mod_eq_of_lt (show op * 2 ^ k + r < 2 ^ 32 by omega), Nat.shiftRight_eq_div_pow, h1, Nat.shiftLeft_eq]

/-! ### One lemma for each instruction -/

theorem add (d i s1 s2 k) : Statement (.add d i s1 s2 k) := by
  intro h
  have := destBits_lt d
  have := idxBits_lt i
  have := k.isLt
  have := wideBits_lt s1 h
  have := narrowBits_lt s2
  simp only [encodeWord, packFormat1, row, Nat.add_assoc]
  refine and_pack 26 0 _ _ _ ?_ (by decide) (by decide) (by decide)
  omega

theorem dp3 (d i s1 s2 k) : Statement (.dp3 d i s1 s2 k) := by
  intro h
  have := destBits_lt d
  have := idxBits_lt i
  have := k.isLt
  have := wideBits_lt s1 h
  have := narrowBits_lt s2
  simp only [encodeWord, packFormat1, row, Nat.add_assoc]
  refine and_pack 26 1 _ _ _ ?_ (by decide) (by decide) (by decide)
  omega

theorem dp4 (d i s1 s2 k) : Statement (.dp4 d i s1 s2 k) := by
  intro h
  have := destBits_lt d
  have := idxBits_lt i
  have := k.isLt
  have := wideBits_lt s1 h
  have := narrowBits_lt s2
  simp only [encodeWord, packFormat1, row, Nat.add_assoc]
  refine and_pack 26 2 _ _ _ ?_ (by decide) (by decide) (by decide)
  omega

theorem dph (d i s1 s2 k) : Statement (.dph d i s1 s2 k) := by
  intro h
  have := destBits_lt d
  have := idxBits_lt i
  have := k.isLt
  have := wideBits_lt s1 h
  have := narrowBits_lt s2
  simp only [encodeWord, packFormat1, row, Nat.add_assoc]
  refine and_pack 26 3 _ _ _ ?_ (by decide) (by decide) (by decide)
  omega

theorem dst (d i s1 s2 k) : Statement (.dst d i s1 s2 k) := by
  intro h
  have := destBits_lt d
  have := idxBits_lt i
  have := k.isLt
  have := wideBits_lt s1 h
  have := narrowBits_lt s2
  simp only [encodeWord, packFormat1, row, Nat.add_assoc]
  refine and_pack 26 4 _ _ _ ?_ (by decide) (by decide) (by decide)
  omega

theorem ex2 (d i s1 k) : Statement (.ex2 d i s1 k) := by
  intro h
  have := destBits_lt d
  have := idxBits_lt i
  have := k.isLt
  have := wideBits_lt s1 h
  simp only [encodeWord, packFormat1, row, Nat.add_assoc]
  refine and_pack 26 5 _ _ _ ?_ (by decide) (by decide) (by decide)
  omega

theorem lg2 (d i s1 k) : Statement (.lg2 d i s1 k) := by
  intro h
  have := destBits_lt d
  have := idxBits_lt i
  have := k.isLt
  have := wideBits_lt s1 h
  simp only [encodeWord, packFormat1, row, Nat.add_assoc]
  refine and_pack 26 6 _ _ _ ?_ (by decide) (by decide) (by decide)
  omega

theorem lit (d i s1 k) : Statement (.lit d i s1 k) := by
  intro h
  have := destBits_lt d
  have := idxBits_lt i
  have := k.isLt
  have := wideBits_lt s1 h
  simp only [encodeWord, packFormat1, row, Nat.add_assoc]
  refine and_pack 26 7 _ _ _ ?_ (by decide) (by decide) (by decide)
  omega

theorem mul (d i s1 s2 k) : Statement (.mul d i s1 s2 k) := by
  intro h
  have := destBits_lt d
  have := idxBits_lt i
  have := k.isLt
  have := wideBits_lt s1 h
  have := narrowBits_lt s2
  simp only [encodeWord, packFormat1, row, Nat.add_assoc]
  refine and_pack 26 8 _ _ _ ?_ (by decide) (by decide) (by decide)
  omega

theorem sge (d i s1 s2 k) : Statement (.sge d i s1 s2 k) := by
  intro h
  have := destBits_lt d
  have := idxBits_lt i
  have := k.isLt
  have := wideBits_lt s1 h
  have := narrowBits_lt s2
  simp only [encodeWord, packFormat1, row, Nat.add_assoc]
  refine and_pack 26 9 _ _ _ ?_ (by decide) (by decide) (by decide)
  omega

theorem slt (d i s1 s2 k) : Statement (.slt d i s1 s2 k) := by
  intro h
  have := destBits_lt d
  have := idxBits_lt i
  have := k.isLt
  have := wideBits_lt s1 h
  have := narrowBits_lt s2
  simp only [encodeWord, packFormat1, row, Nat.add_assoc]
  refine and_pack 26 10 _ _ _ ?_ (by decide) (by decide) (by decide)
  omega

theorem flr (d i s1 k) : Statement (.flr d i s1 k) := by
  intro h
  have := destBits_lt d
  have := idxBits_lt i
  have := k.isLt
  have := wideBits_lt s1 h
  simp only [encodeWord, packFormat1, row, Nat.add_assoc]
  refine and_pack 26 11 _ _ _ ?_ (by decide) (by decide) (by decide)
  omega

theorem max (d i s1 s2 k) : Statement (.max d i s1 s2 k) := by
  intro h
  have := destBits_lt d
  have := idxBits_lt i
  have := k.isLt
  have := wideBits_lt s1 h
  have := narrowBits_lt s2
  simp only [encodeWord, packFormat1, row, Nat.add_assoc]
  refine and_pack 26 12 _ _ _ ?_ (by decide) (by decide) (by decide)
  omega

theorem min (d i s1 s2 k) : Statement (.min d i s1 s2 k) := by
  intro h
  have := destBits_lt d
  have := idxBits_lt i
  have := k.isLt
  have := wideBits_lt s1 h
  have := narrowBits_lt s2
  simp only [encodeWord, packFormat1, row, Nat.add_assoc]
  refine and_pack 26 13 _ _ _ ?_ (by decide) (by decide) (by decide)
  omega

theorem rcp (d i s1 k) : Statement (.rcp d i s1 k) := by
  intro h
  have := destBits_lt d
  have := idxBits_lt i
  have := k.isLt
  have := wideBits_lt s1 h
  simp only [encodeWord, packFormat1, row, Nat.add_assoc]
  refine and_pack 26 14 _ _ _ ?_ (by decide) (by decide) (by decide)
  omega

theorem rsq (d i s1 k) : Statement (.rsq d i s1 k) := by
  intro h
  have := destBits_lt d
  have := idxBits_lt i
  have := k.isLt
  have := wideBits_lt s1 h
  simp only [encodeWord, packFormat1, row, Nat.add_assoc]
  refine and_pack 26 15 _ _ _ ?_ (by decide) (by decide) (by decide)
  omega

theorem mova (i s1 k) : Statement (.mova i s1 k) := by
  intro h
  have := idxBits_lt i
  have := k.isLt
  have := wideBits_lt s1 h
  simp only [encodeWord, packFormat1, row, Nat.add_assoc]
  refine and_pack 26 18 _ _ _ ?_ (by decide) (by decide) (by decide)
  omega

theorem mov (d i s1 k) : Statement (.mov d i s1 k) := by
  intro h
  have := destBits_lt d
  have := idxBits_lt i
  have := k.isLt
  have := wideBits_lt s1 h
  simp only [encodeWord, packFormat1, row, Nat.add_assoc]
  refine and_pack 26 19 _ _ _ ?_ (by decide) (by decide) (by decide)
  omega

theorem dphi (d i s1 s2 k) : Statement (.dphi d i s1 s2 k) := by
  intro h
  have := destBits_lt d
  have := idxBits_lt i
  have := k.isLt
  have := narrowBits_lt s1
  have := wideBits_lt s2 h
  simp only [encodeWord, packFormat1i, row, Nat.add_assoc]
  refine and_pack 26 24 _ _ _ ?_ (by decide) (by decide) (by decide)
  omega

theorem dsti (d i s1 s2 k) : Statement (.dsti d i s1 s2 k) := by
  intro h
  have := destBits_lt d
  have := idxBits_lt i
  have := k.isLt
  have := narrowBits_lt s1
  have := wideBits_lt s2 h
  simp only [encodeWord, packFormat1i, row, Nat.add_assoc]
  refine and_pack 26 25 _ _ _ ?_ (by decide) (by decide) (by decide)
  omega

theorem sgei (d i s1 s2 k) : Statement (.sgei d i s1 s2 k) := by
  intro h
  have := destBits_lt d
  have := idxBits_lt i
  have := k.isLt
  have := narrowBits_lt s1
  have := wideBits_lt s2 h
  simp only [encodeWord, packFormat1i, row, Nat.add_assoc]
  refine and_pack 26 26 _ _ _ ?_ (by decide) (by decide) (by decide)
  omega

theorem slti (d i s1 s2 k) : Statement (.slti d i s1 s2 k) := by
  intro h
  have := destBits_lt d
  have := idxBits_lt i
  have := k.isLt
  have := narrowBits_lt s1
  have := wideBits_lt s2 h
  simp only [encodeWord, packFormat1i, row, Nat.add_assoc]
  refine and_pack 26 27 _ _ _ ?_ (by decide) (by decide) (by decide)
  omega

theorem brk : Statement .brk := fun _ => by decide

theorem nop : Statement .nop := fun _ => by decide

theorem endProg : Statement .endProg := fun _ => by decide

theorem breakc (x y c t n) : Statement (.breakc x y c t n) := by
  intro _
  have := Bool.toNat_le x
  have := Bool.toNat_le y
  have := condBits_lt c
  have := t.isLt
  have := n.isLt
  simp only [encodeWord, packFormat2, row, Nat.add_assoc]
  refine and_pack 26 35 _ _ _ ?_ (by decide) (by decide) (by decide)
  omega

theorem call (t n) : Statement (.call t n) := by
  intro _
  have := t.isLt
  have := n.isLt
  simp only [encodeWord, packFormat2, row, Nat.add_assoc]
  refine and_pack 26 36 _ _ _ ?_ (by decide) (by decide) (by decide)
  simp only [Bool.toNat_false]
  omega

theorem callc (x y c t n) : Statement (.callc x y c t n) := by
  intro _
  have := Bool.toNat_le x
  have := Bool.toNat_le y
  have := condBits_lt c
  have := t.isLt
  have := n.isLt
  simp only [encodeWord, packFormat2, row, Nat.add_assoc]
  refine and_pack 26 37 _ _ _ ?_ (by decide) (by decide) (by decide)
  omega

theorem callu (b t n) : Statement (.callu b t n) := by
  intro _
  have := b.isLt
  have := t.isLt
  have := n.isLt
  simp only [encodeWord, packFormat3, row, Nat.add_assoc]
  refine and_pack 26 38 _ _ _ ?_ (by decide) (by decide) (by decide)
  omega

theorem ifu (b t n) : Statement (.ifu b t n) := by
  intro _
  have := b.isLt
  have := t.isLt
  have := n.isLt
  simp only [encodeWord, packFormat3, row, Nat.add_assoc]
  refine and_pack 26 39 _ _ _ ?_ (by decide) (by decide) (by decide)
  omega

theorem ifc (x y c t n) : Statement (.ifc x y c t n) := by
  intro _
  have := Bool.toNat_le x
  have := Bool.toNat_le y
  have := condBits_lt c
  have := t.isLt
  have := n.isLt
  simp only [encodeWord, packFormat2, row, Nat.add_assoc]
  refine and_pack 26 40 _ _ _ ?_ (by decide) (by decide) (by decide)
  omega

theorem loop (n t) : Statement (.loop n t) := by
  intro _
  have := n.isLt
  have := t.isLt
  simp only [encodeWord, packFormat3, row, Nat.add_assoc]
  refine and_pack 26 41 _ _ _ ?_ (by decide) (by decide) (by decide)
  omega

theorem emit : Statement .emit := fun _ => by decide

theorem setemit (v p x) : Statement (.setemit v p x) := by
  intro _
  have := v.isLt
  have := Bool.toNat_le p
  have := Bool.toNat_le x
  simp only [encodeWord, row, Nat.add_assoc]
  refine and_pack 26 43 _ _ _ ?_ (by decide) (by decide) (by decide)
  omega

theorem jmpc (x y c t) : Statement (.jmpc x y c t) := by
  intro _
  have := Bool.toNat_le x
  have := Bool.toNat_le y
  have := condBits_lt c
  have := t.isLt
  simp only [encodeWord, packFormat2, row, Nat.add_assoc]
  refine and_pack 26 44 _ _ _ ?_ (by decide) (by decide) (by decide)
  omega

theorem jmpu (b t inv) : Statement (.jmpu b t inv) := by
  intro _
  have := b.isLt
  have := t.isLt
  have := Bool.toNat_le inv
  simp only [encodeWord, packFormat3, row, Nat.add_assoc]
  refine and_pack 26 45 _ _ _ ?_ (by decide) (by decide) (by decide)
  omega

theorem cmp (x y i s1 s2 k) : Statement (.cmp x y i s1 s2 k) := by
  intro h
  have := cmpBits_lt x
  have := cmpBits_lt y
  have := idxBits_lt i
  have := k.isLt
  have := wideBits_lt s1 h
  have := narrowBits_lt s2
  simp only [encodeWord, row, Nat.add_assoc]
  refine and_pack 27 23 _ _ _ ?_ (by decide) (by decide) (by decide)
  omega

theorem madi (d i s1 s2 s3 k) : Statement (.madi d i s1 s2 s3 k) := by
  intro h
  have := destBits_lt d
  have := idxBits_lt i
  have := k.isLt
  have := narrowBits_lt s1
  have := narrowBits_lt s2
  have := wideBits_lt s3 h
  simp only [encodeWord, row, Nat.add_assoc]
  refine and_pack 29 6 _ _ _ ?_ (by decide) (by decide) (by decide)
  omega

theorem mad (d i s1 s2 s3 k) : Statement (.mad d i s1 s2 s3 k) := by
  intro h
  have := destBits_lt d
  have := idxBits_lt i
  have := k.isLt
  have := narrowBits_lt s1
  have := wideBits_lt s2 h
  have := narrowBits_lt s3
  simp only [encodeWord, row, Nat.add_assoc]
  refine and_pack 29 7 _ _ _ ?_ (by decide) (by decide) (by decide)
  omega

theorem unassigned10 : Statement .unassigned10 := fun _ => by decide

theorem unassigned11 : Statement .unassigned11 := fun _ => by decide

theorem unassigned14 : Statement .unassigned14 := fun _ => by decide

theorem unassigned15 : Statement .unassigned15 := fun _ => by decide

theorem unassigned16 : Statement .unassigned16 := fun _ => by decide

theorem unassigned17 : Statement .unassigned17 := fun _ => by decide

theorem unassigned1C : Statement .unassigned1C := fun _ => by decide

theorem unassigned1D : Statement .unassigned1D := fun _ => by decide

theorem unassigned1E : Statement .unassigned1E := fun _ => by decide

theorem unassigned1F : Statement .unassigned1F := fun _ => by decide

end Sys2Proof.Laws.OpcodeRow
end

