-- ==== Sys2Proof/Tests/Slice0.lean ====
section
/-! SUPPORT. The model's own tests: well-formedness and decoding on words written out from the encoding
tables of 30_encoding.md, the vectors of 95_test_vectors.md, and for every obligation with hypotheses a
state and operands that meet them. -/

namespace Sys2Proof.Tests

open Sys2Proof.Machine Sys2Proof.Claims

/-! ### Well-formedness (93_implementation_defined.md section 2) -/

theorem test_wf_refuses_c96 : (Instr.mov (.r 0) .none (.c 96) 0).wellFormed = false := by decide

theorem test_wf_accepts_c95 : (Instr.mov (.r 0) .none (.c 95) 0).wellFormed = true := by decide

theorem test_wf_refuses_format1 : (Instr.add (.r 0) .none (.c 96) (.v 0) 0).wellFormed = false := by decide

theorem test_wf_refuses_format1i : (Instr.dphi (.r 0) .none (.v 0) (.c 127) 0).wellFormed = false := by decide

theorem test_wf_refuses_format1c : (Instr.cmp .eq .eq .none (.c 96) (.v 0) 0).wellFormed = false := by decide

theorem test_wf_refuses_format5 : (Instr.mad (.r 0) .none (.v 0) (.c 100) (.v 0) 0).wellFormed = false := by decide

theorem test_wf_refuses_format5i : (Instr.madi (.r 0) .none (.v 0) (.v 0) (.c 96) 0).wellFormed = false := by decide

theorem test_wf_refuses_mova : (Instr.mova .none (.c 96) 0).wellFormed = false := by decide

theorem test_portable_refuses_unassigned_opcode : Instr.unassigned1F.portable .vs = false := by decide

theorem test_portable_refuses_unimplemented_opcode : Instr.brk.portable .gs = false := by decide

theorem test_portable_refuses_compare_operator_6 : (Instr.cmp .unassigned6 .eq .none (.v 0) (.v 0) 0).portable .vs = false := by decide

theorem test_portable_refuses_vertex_id_3 : (Instr.setemit 3 false false).portable .gs = false := by decide

theorem test_portable_refuses_emit_on_vs : Instr.emit.portable .vs = false := by decide

theorem test_portable_refuses_offset_on_input : (Instr.mov (.r 0) .a0x (.v 0) 0).portable .vs = false := by decide

theorem test_portable_accepts_offset_on_uniform : (Instr.mov (.r 0) .a0x (.c 0) 0).portable .vs = true := by decide

/-! ### Decoding: each word written out field by field from R61 to R65, R73 to R76 and R78 -/

theorem test_decode_add : decodeWord (0b000000#6 ++ 0b10001#5 ++ 0b10#2 ++ 0b0100101#7 ++ 0b00011#5 ++ 0b1010101#7 : Word) = .add (.r 1) .a0y (.c 5) (.v 3) 0x55 := by decide

theorem test_decode_dp3 : decodeWord (0b000001#6 ++ 0b10001#5 ++ 0b10#2 ++ 0b0100101#7 ++ 0b00011#5 ++ 0b1010101#7 : Word) = .dp3 (.r 1) .a0y (.c 5) (.v 3) 0x55 := by decide

theorem test_decode_dp4 : decodeWord (0b000010#6 ++ 0b10001#5 ++ 0b10#2 ++ 0b0100101#7 ++ 0b00011#5 ++ 0b1010101#7 : Word) = .dp4 (.r 1) .a0y (.c 5) (.v 3) 0x55 := by decide

theorem test_decode_dph : decodeWord (0b000011#6 ++ 0b10001#5 ++ 0b10#2 ++ 0b0100101#7 ++ 0b00011#5 ++ 0b1010101#7 : Word) = .dph (.r 1) .a0y (.c 5) (.v 3) 0x55 := by decide

theorem test_decode_dst : decodeWord (0b000100#6 ++ 0b10001#5 ++ 0b10#2 ++ 0b0100101#7 ++ 0b00011#5 ++ 0b1010101#7 : Word) = .dst (.r 1) .a0y (.c 5) (.v 3) 0x55 := by decide

theorem test_decode_mul : decodeWord (0b001000#6 ++ 0b10001#5 ++ 0b10#2 ++ 0b0100101#7 ++ 0b00011#5 ++ 0b1010101#7 : Word) = .mul (.r 1) .a0y (.c 5) (.v 3) 0x55 := by decide

theorem test_decode_sge : decodeWord (0b001001#6 ++ 0b10001#5 ++ 0b10#2 ++ 0b0100101#7 ++ 0b00011#5 ++ 0b1010101#7 : Word) = .sge (.r 1) .a0y (.c 5) (.v 3) 0x55 := by decide

theorem test_decode_slt : decodeWord (0b001010#6 ++ 0b10001#5 ++ 0b10#2 ++ 0b0100101#7 ++ 0b00011#5 ++ 0b1010101#7 : Word) = .slt (.r 1) .a0y (.c 5) (.v 3) 0x55 := by decide

theorem test_decode_max : decodeWord (0b001100#6 ++ 0b10001#5 ++ 0b10#2 ++ 0b0100101#7 ++ 0b00011#5 ++ 0b1010101#7 : Word) = .max (.r 1) .a0y (.c 5) (.v 3) 0x55 := by decide

theorem test_decode_min : decodeWord (0b001101#6 ++ 0b10001#5 ++ 0b10#2 ++ 0b0100101#7 ++ 0b00011#5 ++ 0b1010101#7 : Word) = .min (.r 1) .a0y (.c 5) (.v 3) 0x55 := by decide

theorem test_decode_ex2 : decodeWord (0b000101#6 ++ 0b01111#5 ++ 0b11#2 ++ 0b0011111#7 ++ 0b11111#5 ++ 0b1111111#7 : Word) = .ex2 (.o 15) .aL (.r 15) 0x7F := by decide

theorem test_decode_lg2 : decodeWord (0b000110#6 ++ 0b01111#5 ++ 0b11#2 ++ 0b0011111#7 ++ 0b11111#5 ++ 0b1111111#7 : Word) = .lg2 (.o 15) .aL (.r 15) 0x7F := by decide

theorem test_decode_lit : decodeWord (0b000111#6 ++ 0b01111#5 ++ 0b11#2 ++ 0b0011111#7 ++ 0b11111#5 ++ 0b1111111#7 : Word) = .lit (.o 15) .aL (.r 15) 0x7F := by decide

theorem test_decode_flr : decodeWord (0b001011#6 ++ 0b01111#5 ++ 0b11#2 ++ 0b0011111#7 ++ 0b11111#5 ++ 0b1111111#7 : Word) = .flr (.o 15) .aL (.r 15) 0x7F := by decide

theorem test_decode_rcp : decodeWord (0b001110#6 ++ 0b01111#5 ++ 0b11#2 ++ 0b0011111#7 ++ 0b11111#5 ++ 0b1111111#7 : Word) = .rcp (.o 15) .aL (.r 15) 0x7F := by decide

theorem test_decode_rsq : decodeWord (0b001111#6 ++ 0b01111#5 ++ 0b11#2 ++ 0b0011111#7 ++ 0b11111#5 ++ 0b1111111#7 : Word) = .rsq (.o 15) .aL (.r 15) 0x7F := by decide

theorem test_decode_mov : decodeWord (0b010011#6 ++ 0b01111#5 ++ 0b11#2 ++ 0b0011111#7 ++ 0b11111#5 ++ 0b1111111#7 : Word) = .mov (.o 15) .aL (.r 15) 0x7F := by decide

theorem test_decode_mova : decodeWord (0b010010#6 ++ 0b11111#5 ++ 0b01#2 ++ 0b1111111#7 ++ 0b11111#5 ++ 0b0000001#7 : Word) = .mova .a0x (.c 95) 1 := by decide

theorem test_decode_dphi : decodeWord (0b011000#6 ++ 0b01110#5 ++ 0b01#2 ++ 0b10010#5 ++ 0b0100000#7 ++ 0b0000010#7 : Word) = .dphi (.o 14) .a0x (.r 2) (.c 0) 2 := by decide

theorem test_decode_dsti : decodeWord (0b011001#6 ++ 0b01110#5 ++ 0b01#2 ++ 0b10010#5 ++ 0b0100000#7 ++ 0b0000010#7 : Word) = .dsti (.o 14) .a0x (.r 2) (.c 0) 2 := by decide

theorem test_decode_sgei : decodeWord (0b011010#6 ++ 0b01110#5 ++ 0b01#2 ++ 0b10010#5 ++ 0b0100000#7 ++ 0b0000010#7 : Word) = .sgei (.o 14) .a0x (.r 2) (.c 0) 2 := by decide

theorem test_decode_slti : decodeWord (0b011011#6 ++ 0b01110#5 ++ 0b01#2 ++ 0b10010#5 ++ 0b0100000#7 ++ 0b0000010#7 : Word) = .slti (.o 14) .a0x (.r 2) (.c 0) 2 := by decide

theorem test_decode_break : decodeWord (0b100000#6 ++ 0b00000101010101010101010101#26 : Word) = .brk := by decide

theorem test_decode_nop : decodeWord (0b100001#6 ++ 0b00000101010101010101010101#26 : Word) = .nop := by decide

theorem test_decode_end : decodeWord (0b100010#6 ++ 0b00000101010101010101010101#26 : Word) = .endProg := by decide

theorem test_decode_emit : decodeWord (0b101010#6 ++ 0b00000101010101010101010101#26 : Word) = .emit := by decide

theorem test_decode_breakc : decodeWord (0b100011#6 ++ 0b0#1 ++ 0b1#1 ++ 0b11#2 ++ 0b100000000001#12 ++ 0b11#2 ++ 0b00000111#8 : Word) = .breakc false true .justY 0x801 7 := by decide

theorem test_decode_call : decodeWord (0b100100#6 ++ 0b1#1 ++ 0b1#1 ++ 0b11#2 ++ 0b111111111110#12 ++ 0b11#2 ++ 0b10000001#8 : Word) = .call 0xFFE 0x81 := by decide

theorem test_decode_callc : decodeWord (0b100101#6 ++ 0b1#1 ++ 0b0#1 ++ 0b01#2 ++ 0b000000001010#12 ++ 0b00#2 ++ 0b00000011#8 : Word) = .callc true false .and 10 3 := by decide

theorem test_decode_ifc : decodeWord (0b101000#6 ++ 0b1#1 ++ 0b0#1 ++ 0b10#2 ++ 0b000000000101#12 ++ 0b00#2 ++ 0b00000010#8 : Word) = .ifc true false .justX 5 2 := by decide

theorem test_decode_jmpc : decodeWord (0b101100#6 ++ 0b0#1 ++ 0b0#1 ++ 0b00#2 ++ 0b000000010100#12 ++ 0b11#2 ++ 0b11111111#8 : Word) = .jmpc false false .or 20 := by decide

theorem test_decode_callu : decodeWord (0b100110#6 ++ 0b0010#4 ++ 0b000000001010#12 ++ 0b00#2 ++ 0b00000011#8 : Word) = .callu 2 10 3 := by decide

theorem test_decode_ifu : decodeWord (0b100111#6 ++ 0b1111#4 ++ 0b000000000101#12 ++ 0b00#2 ++ 0b00000010#8 : Word) = .ifu 15 5 2 := by decide

theorem test_decode_loop : decodeWord (0b101001#6 ++ 0b1101#4 ++ 0b000000000101#12 ++ 0b11#2 ++ 0b11111111#8 : Word) = .loop 1 5 := by decide

theorem test_decode_jmpu : decodeWord (0b101101#6 ++ 0b0011#4 ++ 0b000000010100#12 ++ 0b00#2 ++ 0b11111111#8 : Word) = .jmpu 3 20 true := by decide

theorem test_decode_jmpu_plain : decodeWord (0b101101#6 ++ 0b0011#4 ++ 0b000000010100#12 ++ 0b00#2 ++ 0b11111110#8 : Word) = .jmpu 3 20 false := by decide

theorem test_decode_setemit : decodeWord (0b101011#6 ++ 0b10#2 ++ 0b1#1 ++ 0b0#1 ++ 0b1111111111111111111111#22 : Word) = .setemit 2 true false := by decide

theorem test_decode_cmp : decodeWord (0b10111#5 ++ 0b100#3 ++ 0b101#3 ++ 0b01#2 ++ 0b0100001#7 ++ 0b10011#5 ++ 0b0001001#7 : Word) = .cmp .gt .ge .a0x (.c 1) (.r 3) 9 := by decide

theorem test_decode_madi : decodeWord (0b110#3 ++ 0b10000#5 ++ 0b01#2 ++ 0b10001#5 ++ 0b10010#5 ++ 0b0100101#7 ++ 0b11111#5 : Word) = .madi (.r 0) .a0x (.r 1) (.r 2) (.c 5) 0x1F := by decide

theorem test_decode_mad : decodeWord (0b111#3 ++ 0b10000#5 ++ 0b10#2 ++ 0b10001#5 ++ 0b0100101#7 ++ 0b10010#5 ++ 0b00011#5 : Word) = .mad (.r 0) .a0y (.r 1) (.c 5) (.r 2) 3 := by decide

theorem test_decode_unassigned10 : decodeWord (0b010000#6 ++ 0b10101010101010101010101010#26 : Word) = .unassigned10 := by decide

theorem test_decode_unassigned11 : decodeWord (0b010001#6 ++ 0b10101010101010101010101010#26 : Word) = .unassigned11 := by decide

theorem test_decode_unassigned14 : decodeWord (0b010100#6 ++ 0b10101010101010101010101010#26 : Word) = .unassigned14 := by decide

theorem test_decode_unassigned15 : decodeWord (0b010101#6 ++ 0b10101010101010101010101010#26 : Word) = .unassigned15 := by decide

theorem test_decode_unassigned16 : decodeWord (0b010110#6 ++ 0b10101010101010101010101010#26 : Word) = .unassigned16 := by decide

theorem test_decode_unassigned17 : decodeWord (0b010111#6 ++ 0b10101010101010101010101010#26 : Word) = .unassigned17 := by decide

theorem test_decode_unassigned1C : decodeWord (0b011100#6 ++ 0b10101010101010101010101010#26 : Word) = .unassigned1C := by decide

theorem test_decode_unassigned1D : decodeWord (0b011101#6 ++ 0b10101010101010101010101010#26 : Word) = .unassigned1D := by decide

theorem test_decode_unassigned1E : decodeWord (0b011110#6 ++ 0b10101010101010101010101010#26 : Word) = .unassigned1E := by decide

theorem test_decode_unassigned1F : decodeWord (0b011111#6 ++ 0b10101010101010101010101010#26 : Word) = .unassigned1F := by decide

/-! ### Decoding: words the spec prints (95_test_vectors.md 2.7 to 2.9) -/

theorem test_spec_word_add : decodeWord 0x02000883#32 = .add (.r 0) .none (.v 0) (.r 1) 3 := by decide

theorem test_spec_word_dphi : decodeWord 0x62445280#32 = .dphi (.r 2) .none (.r 1) (.c 5) 0 := by decide

theorem test_spec_word_sgei : decodeWord 0x6A445280#32 = .sgei (.r 2) .none (.r 1) (.c 5) 0 := by decide

theorem test_spec_word_ifu : decodeWord 0x9C001402#32 = .ifu 0 5 2 := by decide

theorem test_spec_word_loop : decodeWord 0xA4001400#32 = .loop 0 5 := by decide

theorem test_spec_word_callu : decodeWord 0x98802803#32 = .callu 2 10 3 := by decide

theorem test_spec_word_jmpc : decodeWord 0xB0005000#32 = .jmpc false false .or 20 := by decide

theorem test_spec_word_setemit : decodeWord 0xAD000000#32 = .setemit 1 false false := by decide

theorem test_byte_order : decode [0x09#8, 0x22#8, 0x22#8, 0x22#8] = .ok (decodeWord 0x22222209#32, []) := by decide

theorem test_short_input_refused : decode [0x00#8, 0x00#8, 0x00#8] = .error .truncated := by decide

theorem test_table_word : decodeTableWord 32 0x84000000 = some .nop := by decide

theorem test_table_word_short : decodeTableWord 8 0x1FF = some (decodeWord 0xFF#32) := by decide

theorem test_encode_add : encode (.add (.r 0) .none (.r 0) (.v 0) 0) = [0x02010000#32] := by decide

theorem test_encode_jmpu : encode (.jmpu 3 20 true) = [0xB4C05001#32] := by decide

/-! ### The ALU (95_test_vectors.md 1.1 to 1.4, 2.1 to 2.5) -/

theorem test_add_one_one : fadd 0x3F0000 0x3F0000 = 0x400000#24 := by decide

theorem test_add_cancels_to_plus_zero : fadd 0x3F0000 0xBF0000 = 0#24 := by decide

theorem test_add_negative_zeros : fadd 0x800000 0x800000 = 0x800000#24 := by decide

theorem test_add_truncates : fadd 0x3F0000 0x2E0000 = 0x3F0000#24 := by decide

theorem test_add_overflows : fadd 0x7EFFFF 0x7EFFFF = 0x7F0000#24 := by decide

theorem test_add_opposite_infinities : isNaNF (fadd 0x7F0000 0xFF0000) = true := isNaNF_nanResult .add 0x7F0000 0xFF0000

theorem test_mul_inf_zero : fmul 0xFF0000 0x800000 = 0#24 := by decide

theorem test_mul_two_step_rounding : fmul 0x3FFFFF 0x3FFFFF = 0x40FFFE#24 := by decide

theorem test_mul_flushes : fmul 0x010000 0x3E0000 = 0#24 := by decide

theorem test_mul_tenths : fmul 0x3B9999 0x3B9999 = 0x3847AD#24 := by decide

theorem test_max_nan_first : fmax 0x7F8000 0x3F0000 = 0x3F0000#24 := by decide

theorem test_max_zeros : fmax 0x000000 0x800000 = 0x800000#24 := by decide

theorem test_min_nan_second : fmin 0x3F0000 0x7F8000 = 0x7F8000#24 := by decide

theorem test_floor_negative : ffloor 0xC02000 = 0xC08000#24 := by decide

theorem test_floor_small_negative : ffloor 0x810000 = 0xBF0000#24 := by decide

theorem test_floor_below_one : ffloor 0x3E0000 = 0#24 := by decide

theorem test_rcp_three_halves : frcp 0x3F8000 = 0x3E5555#24 := by decide

theorem test_rcp_flushes : frcp 0x7E0000 = 0#24 := by decide

theorem test_rcp_minus_zero : frcp 0x800000 = 0xFF0000#24 := by decide

theorem test_rsq_three : frsq 0x408000 = 0x3E279A#24 := by decide +kernel

theorem test_rsq_largest : frsq 0x7EFFFF = 0x1F0000#24 := by decide +kernel

theorem test_rsq_negative : isNaNF (frsq 0x810000) = true := isNaNF_nanResult .rsq 0x810000 0x810000

theorem test_ftoi_truncates : (ftoi 0xC06000).toInt = -2 := by decide

theorem test_ftoi_large : (ftoi 0x5D0000).toInt = 1073741824 := by decide

theorem test_f32_tenth : f24FromF32 0x3DCCCCCD = 0x3B9999#24 := by decide

theorem test_f32_flush_keeps_sign : f24FromF32 0x9E3CE508 = 0x800000#24 := by decide

theorem test_f32_largest : f24FromF32 0x5F7FFFFF = 0x7EFFFF#24 := by decide

theorem test_f32_overflow : f24FromF32 0x5F800000 = 0x7F0000#24 := by decide

theorem test_ex2_minus_inf : fex2 0xFF0000 = 0#24 := by decide

theorem test_lg2_zero : flg2 0x800000 = 0xFF0000#24 := by decide

theorem test_dot_order : fdot3 ⟨0x500000, 0x3F0000, 0xD00000, 0⟩ ⟨0x3F0000, 0x3F0000, 0x3F0000, 0⟩ = 0#24 := by decide

theorem test_mad_not_fused : fmad 0x3F0001 0x3F0001 0xBF0002 = 0#24 := by decide

theorem test_compare_zeros : (fcmpEq 0 0x800000, fcmpLt 0x800000 0, fcmpGe 0 0x800000) = (true, false, true) := by decide

theorem test_compare_nan : (fcmpNe 0x7F8000 0x7F8000, fcmpEq 0x7F8000 0x7F8000) = (true, false) := by decide

/-! ### One step of one instruction (95_test_vectors.md 2.6 to 2.9) -/

/-- The program of one word at address `pc` on the vertex unit, which runs, with the descriptors of 95_test_vectors.md 2.7
and its start registers. -/
def start (pc : Nat) (w : Word) (v0 r1 r2 : Vec4) : State := { State.reset with
  vs := { ShaderUnit.reset with
    run := .running, pc := pc, prog := [(pc, w)]
    swz := [(0, 0x0D86C36F#32), (3, 0x0D86FC8A#32), (4, 0x0D86C36C#32), (5, 0x0D80036F#32), (6, 0x0D86C015#32),
      (7, 0x0D86CAAF#32), (8, 0x0D86DFE8#32), (9, 0x0D86C36C#32), (10, 0x0D86C364#32)]
    v := ShaderUnit.reset.v.set 0 v0
    r := ((ShaderUnit.reset.r.set 0 (Vec4.splat 0x422000)).set 1 r1).set 2 r2
    c := (ShaderUnit.reset.c.set 5 ⟨0x3E0000, 0x3D0000, 0x400000, 0xBF0000⟩).set 7 (Vec4.splat 0x41C000)
    a0x := 2, a0y := 22, al := 33 } }

/-- A property of the next state of a result. -/
def after (r : Result) (p : State → Bool) : Bool :=
  match r with
  | .next s => p s
  | .fault _ => false
  | .refused _ => false

/-- V0 and R[1] of 95_test_vectors.md 2.7. -/
def v0 : Vec4 := ⟨0x3F0000, 0x400000, 0x408000, 0x410000⟩
def r1 : Vec4 := ⟨0x424000, 0x434000, 0x43E000, 0x444000⟩
def zero : Vec4 := Vec4.splat 0
def one : Vec4 := Vec4.splat 0x3F0000

/-- The step of `w` on these sources leaves `val` in `dest` and the pc one further. -/
def leaves (w : Word) (a b c : Vec4) (dest : Dest) (val : Vec4) : Bool :=
  after (step (start 0 w a b c)) fun t => destReg t.vs dest = val && t.vs.pc = 1

theorem test_step_add : leaves 0x02000883 v0 r1 zero (.r 0) ⟨0xC18000, 0x422000, 0xC3C000, 0x422000⟩ = true := by decide

theorem test_step_mul : leaves 0x22425880 v0 r1 zero (.r 2) ⟨0x414000, 0x414000, 0x44E000, 0xC44000⟩ = true := by decide

theorem test_step_mul_offset : leaves 0x224A5880 v0 r1 zero (.r 2) ⟨0x451800, 0x461800, 0x46A400, 0x471800⟩ = true := by decide

theorem test_step_dp3 : leaves 0x06400884 v0 r1 zero (.r 2) ⟨0x461800, 0x461800, 0, 0⟩ = true := by decide

theorem test_step_dp4 : leaves 0x08200880 v0 r1 zero (.o 1) (.splat 0x472C00) = true := by decide

theorem test_step_dph : leaves 0x0E400880 v0 r1 zero (.r 2) (.splat 0x466800) = true := by decide

theorem test_step_dphi : leaves 0x62445280 v0 r1 zero (.r 2) (.splat 0x451400) = true := by decide

theorem test_step_max : leaves 0x32400885 v0 (.splat 0x404000) zero (.r 2) ⟨0x404000, 0x404000, 0x408000, 0x410000⟩ = true := by decide

theorem test_step_min : leaves 0x36400885 v0 (.splat 0x404000) zero (.r 2) ⟨0x3F0000, 0x400000, 0x404000, 0x404000⟩ = true := by decide

theorem test_step_sge : leaves 0x26400885 v0 (.splat 0x404000) zero (.r 2) ⟨0, 0, 0x3F0000, 0x3F0000⟩ = true := by decide

theorem test_step_slt : leaves 0x2A400885 v0 (.splat 0x404000) zero (.r 2) ⟨0x3F0000, 0x3F0000, 0, 0⟩ = true := by decide

theorem test_step_sgei : leaves 0x6A445280 v0 r1 zero (.r 2) one = true := by decide

theorem test_step_slti : leaves 0x6E445280 v0 r1 one (.r 2) zero = true := by decide

theorem test_step_flr : leaves 0x2E400000 ⟨0x3F8000, 0xBF8000, 0xBD0000, 0x459300⟩ r1 zero (.r 2) ⟨0x3F0000, 0xC00000, 0xBF0000, 0x459000⟩ = true := by decide

theorem test_step_mov : leaves 0x4E400006 ⟨0x3F8000, 0xBF8000, 0xBD0000, 0x459300⟩ r1 zero (.r 2) ⟨0, 0xBF8000, 0, 0xBF8000⟩ = true := by decide

theorem test_step_mad : leaves 0xF0229640 v0 r1 one (.r 0) ⟨0x418000, 0x418000, 0x44E800, 0xC43800⟩ = true := by decide

theorem test_step_madi : leaves 0xD06324A0 v0 r1 one (.r 0) ⟨0x431000, 0x43B000, 0x442800, 0x447800⟩ = true := by decide

theorem test_step_rcp : leaves 0x3A400007 ⟨0x3F0000, 0x410000, 0x408000, 0x410000⟩ r1 zero (.r 2) (.splat 0x3D0000) = true := by decide

theorem test_step_rsq : leaves 0x3E400008 ⟨0x3F0000, 0x410000, 0x408000, 0x430000⟩ r1 zero (.r 2) ⟨0x3D0000, 0, 0, 0⟩ = true := by decide +kernel

theorem test_step_ex2 : leaves 0x16400000 ⟨0x7F0000, 0, 0, 0⟩ r1 zero (.r 2) (.splat 0x7F0000) = true := by decide

theorem test_step_lg2 : leaves 0x1A400000 zero r1 zero (.r 2) (.splat 0xFF0000) = true := by decide

/-- The step of `w` at `pc` leaves the vertex unit with property `p`. -/
def flows (pc : Nat) (w : Word) (f : ShaderUnit → ShaderUnit) (p : ShaderUnit → Bool) : Bool :=
  let s := start pc w v0 r1 zero
  after (step { s with vs := f s.vs }) fun t => p t.vs

/-- The frame of CALL and IF. -/
def plain (e r l : Nat) : Frame := ⟨e, r, 0, 0, l, false, 0, false⟩

theorem test_step_mova_xy : flows 0 0x48000009 (fun x => { x with v := x.v.set 0 ⟨0x40F333, 0xC1F999, 0, 0⟩ }) (fun x => x.a0x = 3 && x.a0y.toInt = -7 && x.al = 33) = true := by decide

theorem test_step_mova_y : flows 0 0x4800000A (fun x => { x with v := x.v.set 0 ⟨0x40F333, 0xC1F999, 0, 0⟩ }) (fun x => x.a0x = 2 && x.a0y.toInt = -7) = true := by decide

theorem test_step_cmp_eq_ne : flows 0 0xB8200880 (fun x => { x with r := x.r.set 1 ⟨0x3F0000, 0x408000, 0, 0⟩ }) (fun x => x.ccx && x.ccy) = true := by decide

theorem test_step_cmp_lt_le : flows 0 0xBA600880 (fun x => { x with r := x.r.set 1 ⟨0x3F0000, 0x408000, 0, 0⟩ }) (fun x => !x.ccx && x.ccy) = true := by decide

theorem test_step_cmp_bad_operator : after (step (start 4 0xBE000880 v0 r1 zero)) (fun t => t.log = [.badCompareOp 4 6] && !t.vs.ccx) = true := by decide

theorem test_step_dst : after (step (start 3 0x10010800 v0 r1 zero)) (fun t => t.log = [.unimplementedOpcode 3 0x04] && t.vs.pc = 4) = true := by decide

theorem test_step_lit : after (step (start 3 0x1C000000 v0 r1 zero)) (fun t => t.log = [.unimplementedOpcode 3 0x07] && t.vs.pc = 4) = true := by decide

theorem test_step_dsti : after (step (start 3 0x64000000 v0 r1 zero)) (fun t => t.log = [.unimplementedOpcode 3 0x19] && t.vs.pc = 4) = true := by decide

theorem test_step_break : after (step (start 3 0x80000000 v0 r1 zero)) (fun t => t.log = [.unimplementedOpcode 3 0x20] && t.vs.pc = 4) = true := by decide

theorem test_step_breakc : after (step (start 3 0x8C000000 v0 r1 zero)) (fun t => t.log = [.unimplementedOpcode 3 0x23] && t.vs.pc = 4) = true := by decide

theorem test_step_unassigned10 : after (step (start 3 0x40000000 v0 r1 zero)) (fun t => t.log = [.unknownOpcode 3 0x10] && t.vs.pc = 4) = true := by decide

theorem test_step_unassigned11 : after (step (start 3 0x44000000 v0 r1 zero)) (fun t => t.log = [.unknownOpcode 3 0x11] && t.vs.pc = 4) = true := by decide

theorem test_step_unassigned14 : after (step (start 3 0x50000000 v0 r1 zero)) (fun t => t.log = [.unknownOpcode 3 0x14] && t.vs.pc = 4) = true := by decide

theorem test_step_unassigned15 : after (step (start 3 0x54000000 v0 r1 zero)) (fun t => t.log = [.unknownOpcode 3 0x15] && t.vs.pc = 4) = true := by decide

theorem test_step_unassigned16 : after (step (start 3 0x58000000 v0 r1 zero)) (fun t => t.log = [.unknownOpcode 3 0x16] && t.vs.pc = 4) = true := by decide

theorem test_step_unassigned17 : after (step (start 3 0x5C000000 v0 r1 zero)) (fun t => t.log = [.unknownOpcode 3 0x17] && t.vs.pc = 4) = true := by decide

theorem test_step_unassigned1C : after (step (start 3 0x70000000 v0 r1 zero)) (fun t => t.log = [.unknownOpcode 3 0x1C] && t.vs.pc = 4) = true := by decide

theorem test_step_unassigned1D : after (step (start 3 0x74000000 v0 r1 zero)) (fun t => t.log = [.unknownOpcode 3 0x1D] && t.vs.pc = 4) = true := by decide

theorem test_step_unassigned1E : after (step (start 3 0x78000000 v0 r1 zero)) (fun t => t.log = [.unknownOpcode 3 0x1E] && t.vs.pc = 4) = true := by decide

theorem test_step_unassigned1F : after (step (start 3 0x7C000000 v0 r1 zero)) (fun t => t.log = [.unknownOpcode 3 0x1F] && t.vs.pc = 4) = true := by decide

theorem test_step_nop : flows 4 0x84000000 id (fun x => x.pc = 5) = true := by decide

theorem test_step_end : flows 4 0x88000000 id (fun x => x.pc = 4 && x.run = .halted) = true := by decide

theorem test_step_call : flows 2 0x90002803 id (fun x => x.stk = [plain 13 3 10] && x.pc = 10) = true := by decide

theorem test_step_callc_taken : flows 2 0x96402803 (fun x => { x with ccx := true }) (fun x => x.stk = [plain 13 3 10]) = true := by decide

theorem test_step_callc_not_taken : flows 2 0x96402803 (fun x => { x with ccx := true, ccy := true }) (fun x => x.stk = [] && x.pc = 3) = true := by decide

theorem test_step_callu_not_taken : flows 2 0x98802803 id (fun x => x.stk = [] && x.pc = 3) = true := by decide

theorem test_step_ifu_false : flows 1 0x9C001402 id (fun x => x.stk = [plain 7 7 5] && x.pc = 5) = true := by decide

theorem test_step_ifc_true : flows 1 0xA2801402 (fun x => { x with ccx := true }) (fun x => x.stk = [plain 5 7 2] && x.pc = 2) = true := by decide

theorem test_step_jmpc_not_taken : flows 3 0xB0005000 (fun x => { x with ccx := true, ccy := true }) (fun x => x.pc = 4) = true := by decide

theorem test_step_jmpc_taken : flows 3 0xB0005000 (fun x => { x with ccx := true }) (fun x => x.pc = 20) = true := by decide

theorem test_step_jmpu_not_taken : flows 3 0xB4C05000 id (fun x => x.pc = 4) = true := by decide

theorem test_step_jmpu_inverted : flows 3 0xB4C05001 id (fun x => x.pc = 20) = true := by decide

/-- With `B` and `I0` of the vertex unit set. -/
def withUniforms (s : State) : State := (s.hregWrite (regBuni .vs) 0x0000000D#32).hregWrite (regIuni .vs 0) 0x00010004#32

theorem test_step_loop : after (step (withUniforms (start 1 0xA4001400 v0 r1 zero))) (fun t => t.vs.stk = [⟨6, 6, 4, 1, 2, false, 0, true⟩] && t.vs.al = 0 && t.vs.pc = 2) = true := by decide

theorem test_step_callu_taken : after (step (withUniforms (start 2 0x98802803 v0 r1 zero))) (fun t => t.vs.stk = [plain 13 3 10] && t.vs.pc = 10) = true := by decide

theorem test_step_ifu_true : after (step (withUniforms (start 1 0x9C001402 v0 r1 zero))) (fun t => t.vs.stk = [plain 5 7 2] && t.vs.pc = 2) = true := by decide

theorem test_frame_repeats : flows 2 0x84000000 (fun x => { x with pc := 6, al := 0, stk := [⟨6, 6, 4, 1, 2, false, 0, true⟩] }) (fun x => x.pc = 3 && x.al = 1) = true := by decide

theorem test_frame_pops : flows 6 0x84000000 (fun x => { x with al := 4, stk := [⟨6, 6, 0, 1, 2, false, 0, true⟩] }) (fun x => x.pc = 7 && x.al = 5 && x.stk = []) = true := by decide

theorem test_frames_unwind_together : flows 9 0x84000000 (fun x => { x with pc := 6, stk := [plain 6 6 4, plain 6 9 1] }) (fun x => x.pc = 10 && x.stk = []) = true := by decide

/-- One word at address 0 on the geometry unit, which runs, with emitter `em`. -/
def geometry (w : Word) (em : Emitter) : State := { State.reset with
  gs := { ShaderUnit.reset with
    run := .running, prog := [(0, w)]
    o := ShaderUnit.reset.o.set 0 v0 }
  em := em }

theorem test_step_setemit : after (step (geometry 0xAEC00000 State.reset.em)) (fun t => t.em.vertexId = 2 && t.em.primEmit && t.em.winding && t.gs.pc = 1) = true := by decide

theorem test_step_emit_slot : after (step (geometry 0xA8000000 { State.reset.em with vertexId := 1 })) (fun t => t.em.buf[1][0] = v0 && t.vout = []) = true := by decide

theorem test_step_emit_push : after (step ((geometry 0xA8000000 { State.reset.em with vertexId := 2, primEmit := true, winding := true }).hregWrite (regOutMask .gs) 1)) (fun t => t.vout = [.windingMarker, .vertex [zero], .vertex [zero], .vertex [v0]]) = true := by decide

/-! ### From reset: an instruction placed where the machine fetches next -/

theorem test_reset_runs_nop : after (step (State.reset.withFetchWord 32 0x84000000)) (fun t => t.gs.pc = 1) = true := by decide

theorem test_reset_runs_emit : after (step (State.reset.withFetchWord 32 0xA8000000)) (fun t => t.gs.pc = 1) = true := by decide

theorem test_reset_idles : step State.reset = .next State.reset := rfl

/-! ### The pipeline and the host port (95_test_vectors.md 1.8, 2.9, 2.10) -/

theorem test_masked_merge : mergeMasked 0x11223344 0xAABBCCDD 5 = 0x11BB33DD#32 := by decide

theorem test_masked_merge_other : mergeMasked 0x11223344 0xAABBCCDD 0xA = 0xAA22CC44#32 := by decide

theorem test_raw_uniform : unpackRaw 0x459000BE 0x00004000 0x003F0000 = ⟨0x3F0000, 0x400000, 0xBE0000, 0x459000⟩ := by decide

theorem test_f32_uniform : unpackF32 0x42C80000 0xBF000000 0x40000000 0x3F800000 = ⟨0x3F0000, 0x400000, 0xBE0000, 0x459000⟩ := by decide

theorem test_pack : packRegs ((ShaderUnit.reset.o.set 0 v0).set 2 r1) 0x0005 = [v0, r1] := by decide

theorem test_load_input : (loadInput ShaderUnit.reset.v ((ShaderUnit.reset.v.set 0 v0).set 1 r1) (fun i => if i = 0 then 3 else i) 2)[3] = v0 := by decide

theorem test_header_extra : (headerBurst 0x002F02C1).map (fun b => (b.id, b.mask, b.left, b.group)) = some (0x2C1, 0xF, 2, false) := by decide

theorem test_header_group : (headerBurst 0x801F02BA).map (fun b => (b.id, b.mask, b.left, b.group)) = some (0x2BA, 0xF, 1, true) := by decide

theorem test_topology_fan : (State.reset.hregWrite regTopology 0x200).topology = 2 := by decide

theorem test_gs_config : let s := State.reset.hregWrite regGsConfig 0x000A0201; (s.gsMode, s.fixedVertexNum, s.fixedStart) = (1, 3, 10) := by decide

theorem test_program_offset_out_of_range : after ((State.reset.hregWrite (regProgOffset .vs) 512).writeReg (regProgData .vs) 0 15) (fun t => t.log = [.badStreamOffset .vs .prog 512] && t.hregRead (regProgOffset .vs) = 512) = true := by decide

theorem test_uniform_index_96 : after (({ State.reset with vs := { ShaderUnit.reset with fuN := 2 } }.hregWrite (regFuniSetup .vs) 96).writeReg (regFuniData .vs) 0 15) (fun t => t.log = [.badUniformIndex .vs 96] && t.vs.fuN = 0) = true := by decide

/-! ### For every obligation with hypotheses, a state and operands that meet them -/

theorem witness_DecodeEncodeAgree : (Instr.mad (.o 15) .aL (.r 15) (.c 95) (.v 0) 31).wellFormed = true := by decide

theorem witness_StepRunsDecodedInstruction :
    ((geometry 0x84000000 State.reset.em).gs.run = .running ∧
      progRead .gs (geometry 0x84000000 State.reset.em).frameChecked.curUnit 0 = some 0x84000000#32) ∧
    ((start 511 0x84000000 zero zero zero).gs.run = .idle ∧ (start 511 0x84000000 zero zero zero).vs.run = .running ∧
      progRead .vs (start 511 0x84000000 zero zero zero).frameChecked.curUnit 511 = some 0x84000000#32) ∧
    decode (wordBytes 0x84000000#32) = .ok (.nop, []) ∧ Instr.nop.wellFormed = true ∧
    ((start 512 0 zero zero zero).gs.run = .idle ∧ (start 512 0 zero zero zero).vs.run = .running ∧
      progRead .vs (start 512 0 zero zero zero).frameChecked.curUnit 512 = none) := by decide

/-- States with both units idle: an entry in VOUT, a draw, a list, a call the host is allowed and two it is not. -/
theorem witness_idle_steps :
    let idle (s : State) : Prop := s.gs.run = .idle ∧ s.vs.run = .idle
    (idle { State.reset with vout := [.windingMarker] } ∧ { State.reset with vout := [.windingMarker] }.vout = .windingMarker :: []) ∧
    (idle { State.reset with draw := some ⟨true, []⟩ } ∧ { State.reset with draw := some ⟨true, []⟩ }.vout = []) ∧
    (idle { State.reset with cl := some ⟨8, 2, 0, none⟩ } ∧ { State.reset with cl := some ⟨8, 2, 0, none⟩ }.draw = none) ∧
    (idle { State.reset with hostCalls := [(8, 16)] } ∧ { State.reset with hostCalls := [(8, 16)] }.cl = none ∧
      8 % 8 = 0 ∧ 16 % 8 = 0 ∧ 4 % 8 ≠ 0) ∧
    idle State.reset ∧ State.reset.hostCalls = [] := by decide

/-- A call of the host begins a list, whose length is counted in words (R240). -/
theorem test_host_call_begins_list :
    step { State.reset with hostCalls := [(64, 24)] } = .next { State.reset with cl := some ⟨64, 6, 0, none⟩ } := rfl

theorem reset_temporaries_canonical : CanonicalFile ShaderUnit.reset.r := by decide

theorem reset_outputs_canonical : CanonicalFile ShaderUnit.reset.o := by decide

theorem reset_inputs_canonical : CanonicalFile ShaderUnit.reset.v := by decide

theorem reset_uniforms_canonical : CanonicalFile ShaderUnit.reset.c := by
  intro i; simp only [ShaderUnit.reset, Fin.getElem_fin, Vector.getElem_replicate]; decide

theorem reset_emitter_canonical : ∀ (j : Fin 3) (n : Fin 16), CanonicalVec State.reset.em.buf[j][n] := by decide

theorem geometry_outputs_canonical : CanonicalFile (ShaderUnit.reset.o.set 0 v0) := by decide

theorem legal_geometry (w : Word) : (geometry w State.reset.em).Legal where
  vs_legal := ⟨List.Pairwise.nil, by simp [geometry, State.reset, ShaderUnit.reset], List.Pairwise.nil,
    by simp [geometry, State.reset, ShaderUnit.reset],
    by simp [geometry, State.reset, ShaderUnit.reset, Config.callStackDepth],
    by simp [geometry, State.reset, ShaderUnit.reset]⟩
  gs_legal := ⟨by simp [geometry, ShaderUnit.reset], by simp [geometry, ShaderUnit.reset, progInRange, Config.vsProgWords],
    List.Pairwise.nil, by simp [geometry, ShaderUnit.reset],
    by simp [geometry, ShaderUnit.reset, Config.callStackDepth], by simp [geometry, ShaderUnit.reset]⟩
  one_unit := .inl rfl
  backend_legal := trivial
  assembler_bounded := by simp [geometry, State.reset]
  hreg_canonical := ⟨List.Pairwise.nil, by simp [geometry, State.reset]⟩
  guest_canonical := List.Pairwise.nil
  defattr_bounded := by simp [geometry, State.reset]
  immediate_bounded := by simp [geometry, State.reset]
  burst_nonempty := by simp [geometry, State.reset]

theorem canonical_geometry (w : Word) : (geometry w State.reset.em).AllCanonical where
  vs_canonical := ⟨reset_temporaries_canonical, reset_outputs_canonical, reset_inputs_canonical, reset_uniforms_canonical⟩
  gs_canonical := ⟨reset_temporaries_canonical, geometry_outputs_canonical, reset_inputs_canonical, reset_uniforms_canonical⟩
  point_canonical := by simp [geometry, State.reset]
  emitter_canonical := reset_emitter_canonical
  fifo_canonical := by simp [geometry, State.reset]
  assembler_canonical := ⟨(fun _ h => nomatch h), (fun _ h => nomatch h)⟩
  triangles_canonical := by simp [geometry, State.reset]
  immediate_canonical := reset_inputs_canonical
  draw_canonical := by simp [geometry, State.reset]

theorem witness_StepKeepsLegal :
    (geometry 0x84000000 State.reset.em).Legal ∧ (geometry 0x84000000 State.reset.em).AllCanonical ∧
    RawLoadCanonical (geometry 0x84000000 State.reset.em) ∧ ∃ t, step (geometry 0x84000000 State.reset.em) = .next t :=
  ⟨legal_geometry _, canonical_geometry _, (fun _ _ _ _ h => nomatch h.2.1), _, rfl⟩

/-- Guest memory with the eight bytes of one logical command at address 0: value 0x123400, header `h`. -/
def oneCommand (h : Word) : State :=
  { State.reset with
    guest := memWriteWord (memWriteWord [] 0 0x00123400) 4 h
    cl := some ⟨0, 2, 0, none⟩
    vs := { ShaderUnit.reset with fuN := 2 } }

/-- The list's write to the first float-uniform data register is a raw load: two words of zeros and 0x123400. -/
theorem witness_RawLoad :
    ListWrites (oneCommand 0x000F02C1) 0x2C1 0x00123400 15 ∧
    LoadsRaw (oneCommand 0x000F02C1) 0x2C1 0x00123400 15 ⟨0x123400, 0, 0, 0⟩ ∧
    CanonicalVec ⟨0x123400, 0, 0, 0⟩ ∧ ¬ CanonicalVec ⟨0x001234, 0, 0, 0⟩ :=
  ⟨⟨rfl, rfl, rfl, rfl, _, rfl, by decide, .inr ⟨0x000F02C1, rfl, by decide, by decide, by decide, by decide⟩⟩,
    ⟨0x00123400, fun i => if i.val = 2 then 0x00123400 else 0, by unfold IsMerged; decide, by unfold IsUnpacked; decide,
      .inl ⟨.vs, 0, by decide, by decide, by decide, by decide, by decide⟩⟩,
    by decide, by decide⟩

theorem witness_StepKeepsGuestAndStreams : ∃ t, step (start 0 0x84000000 zero zero zero) = .next t := ⟨_, rfl⟩

/-- A unit at `pc` with stack `stk`. -/
def stacked (pc : Nat) (stk : List Frame) : ShaderUnit := { ShaderUnit.reset with pc := pc, stk := stk }

theorem witness_FrameCheckRule :
    (stacked 6 []).stk = [] ∧
    ((stacked 5 [plain 6 7 0]).stk = plain 6 7 0 :: [] ∧ (stacked 5 [plain 6 7 0]).pc ≠ (plain 6 7 0).endAddr) ∧
    ((stacked 6 [plain 6 7 0]).pc = (plain 6 7 0).endAddr ∧ (plain 6 7 0).count = 0) ∧
    ((stacked 6 [⟨6, 6, 255, 1, 2, false, 0, true⟩]).pc = 6 ∧ (255 : BitVec 8) ≠ 0) ∧
    (frameCheck (stacked 6 [⟨6, 6, 255, 1, 2, false, 0, true⟩])).stk = ⟨6, 6, 254, 1, 2, false, 0, true⟩ :: [] := by
  decide

theorem witness_LoopBodyRunsCountPlusOneTimes :
    let s := withUniforms (start 1 0xA4000800 zero zero zero)
    (∃ t, exec (.loop 0 2) s = .next t) ∧ s.curUnit.pc + 1 ≤ (2 : BitVec 12).toNat ∧
      (∀ f ∈ s.curUnit.stk, f.endAddr ≠ (2 : BitVec 12).toNat + 1) ∧ 4 ≤ (intX (s.intUniform s.cur 0)).toNat :=
  ⟨⟨_, rfl⟩, by decide, by decide, by decide⟩

theorem witness_ResIsCorrectlyRounded : (0 : Nat) < 1 := by decide

/-- The boundary values of the classes of R91. -/
theorem witness_classes :
    classF 0x000000 = .zero false ∧ classF 0x80FFFF = .zero true ∧ classF 0x010000 = .fin false 1 0 ∧
    classF 0x7EFFFF = .fin false 126 65535 ∧ classF 0x810000 = .fin true 1 0 ∧ classF 0xFEFFFF = .fin true 126 65535 ∧
    classF 0x7F0000 = .inf false ∧ classF 0xFF0000 = .inf true ∧ classF 0x7F0001 = .nan ∧ classF 0xFFFFFF = .nan := by decide

theorem witness_AddTable :
    (classF 0x7F0001 = .nan) ∧ (classF 0xFF0000 = .inf true) ∧ (classF 0x7F0000 = .inf (!true)) ∧
    isFinite 0x80FFFF ∧ isFinite 0x7EFFFF ∧ (classF 0x000000 = .zero false) ∧ (classF 0x80FFFF = .zero true) ∧
    (classF 0x010000 = .fin false 1 0 ∧ classF 0xFEFFFF = .fin true 126 65535) :=
  ⟨by decide, by decide, by decide, .inl ⟨true, by decide⟩, .inr ⟨false, 126, 65535, by decide⟩, by decide, by decide, by decide⟩

theorem witness_MulTable :
    (classF 0xFFFFFF = .nan) ∧ (classF 0x80FFFF = .zero true ∧ classF 0x7F0000 = .inf false) ∧
    (classF 0xFF0000 = .inf true ∧ classF 0x000000 = .zero false) ∧
    (classF 0x010000 = .fin false 1 0 ∧ classF 0xFEFFFF = .fin true 126 65535) := by decide

theorem witness_RcpTable :
    classF 0x7F0001 = .nan ∧ classF 0x800000 = .zero true ∧ classF 0xFF0000 = .inf true ∧ classF 0x7D0000 = .fin false 125 0 ∧
    classF 0x7EFFFF = .fin false 126 65535 := by decide

theorem witness_RsqTable :
    classF 0x7F0001 = .nan ∧ classF 0x800000 = .zero true ∧ classF 0x810000 = .fin true 1 0 ∧ classF 0xFF0000 = .inf true ∧
    classF 0x7F0000 = .inf false ∧ classF 0x010000 = .fin false 1 0 ∧ classF 0x7EFFFF = .fin false 126 65535 := by decide

theorem witness_Ex2Lg2Rows :
    classF 0x7F0001 = .nan ∧ classF 0x7F0000 = .inf false ∧ classF 0xFF0000 = .inf true ∧ classF 0x80FFFF = .zero true ∧
    classF 0x810000 = .fin true 1 0 ∧ classF 0x7EFFFF = .fin false 126 65535 ∧ isFinite 0x80FFFF :=
  ⟨by decide, by decide, by decide, by decide, by decide, by decide, .inl ⟨true, by decide⟩⟩

theorem valR_half : valR 0x3E0000 = 1 / 2 := by
  have h : classF 0x3E0000 = .fin false 62 0 := by decide
  unfold valR; rw [h]; norm_num

theorem witness_FloorRule :
    classF 0x7F0001 = .nan ∧ classF 0xFF0000 = .inf true ∧ classF 0x80FFFF = .zero true ∧ classF 0x3E0000 = .fin false 62 0 ∧
    ⌊valR 0x3E0000⌋ = 0 := by
  refine ⟨by decide, by decide, by decide, by decide, ?_⟩
  rw [valR_half]; norm_num

theorem extR_top : extR 0x7F0000 = ⊤ := by
  have h : classF 0x7F0000 = .inf false := by decide
  unfold extR; rw [h]; rfl

theorem extR_bot : extR 0xFF0000 = ⊥ := by
  have h : classF 0xFF0000 = .inf true := by decide
  unfold extR; rw [h]; rfl

theorem valR_of_zero (a : F24) (s : Bool) (h : classF a = .zero s) : valR a = 0 := by
  unfold valR; rw [h]

theorem extR_of_zero (a : F24) (s : Bool) (h : classF a = .zero s) : extR a = ((0 : ℝ) : EReal) := by
  unfold extR; rw [h]; simp only [valR_of_zero a s h]

theorem extR_zeroF (s : Bool) : extR (zeroF s) = ((0 : ℝ) : EReal) := extR_of_zero _ s (classF_zeroF s)

theorem witness_MaxMinRule :
    classF 0x7F0001 = .nan ∧ (classF 0x7F0000 ≠ .nan ∧ classF 0xFF0000 ≠ .nan) ∧ extR 0xFF0000 < extR 0x7F0000 ∧
    extR (zeroF false) = extR (zeroF true) := by
  refine ⟨by decide, by decide, ?_, ?_⟩
  · rw [extR_top, extR_bot]; exact bot_lt_top
  · exact (extR_zeroF false).trans (extR_zeroF true).symm

theorem witness_CompareRule : classF 0xFFFFFF = .nan ∧ classF 0x7F0000 ≠ .nan ∧ classF 0x000000 ≠ .nan := by decide

theorem valR_two : valR 0x400000 = 2 := by
  have h : classF 0x400000 = .fin false 64 0 := by decide
  unfold valR; rw [h]; norm_num

theorem witness_FtoiTruncates : isFinite 0x400000 ∧ |valR 0x400000| < (2 : ℝ) ^ (31 : ℤ) := by
  refine ⟨.inr ⟨false, 64, 0, by decide⟩, ?_⟩
  rw [valR_two]; norm_num

theorem witness_F32Conversions :
    ((0x7F800001#32).toNat / 2 ^ 23 % 256 = 255 ∧ (0x7F800001#32).toNat % 2 ^ 23 ≠ 0) ∧
    ((0xFF800000#32).toNat / 2 ^ 23 % 256 = 255 ∧ (0xFF800000#32).toNat % 2 ^ 23 = 0) ∧
    (0xA07FFFFF#32).toNat / 2 ^ 23 % 256 = 64 ∧ (0x5F800000#32).toNat / 2 ^ 23 % 256 = 191 ∧
    (0x7F7FFFFF#32).toNat / 2 ^ 23 % 256 = 254 ∧ (0x20800000#32).toNat / 2 ^ 23 % 256 = 65 ∧
    (0xDF7FFFFF#32).toNat / 2 ^ 23 % 256 = 190 ∧ (classF 0x7EFFFF ≠ .nan ∧ (expF 0x7EFFFF = 0 → manF 0x7EFFFF = 0)) ∧
    classF 0x7F0001 = .nan := by decide

theorem witness_AluResultsCanonical :
    (Canonical 0x800000 ∧ Canonical 0x010001 ∧ ¬ Canonical 0x80FFFF ∧ classF 0x80FFFF ≠ .nan) ∧
    CanonicalFile ShaderUnit.reset.v ∧ CanonicalFile ShaderUnit.reset.r ∧ CanonicalFile ShaderUnit.reset.c :=
  ⟨by decide, reset_inputs_canonical, reset_temporaries_canonical, reset_uniforms_canonical⟩

/-- An attribute pattern arrives as its value (R94, R258): the payload of a NaN stays, the mantissa of a zero goes. -/
theorem test_received_attribute :
    (LoaderVertex.received ⟨7, Vector.replicate 16 ⟨0x7F0001, 0x001234, 0x80FFFF, 0x3F0001⟩⟩).attrs[(3 : Fin 16)] =
      ⟨0x7F0001, 0x000000, 0x800000, 0x3F0001⟩ := by decide

/-- A raw load keeps every encoding bit for bit (R251); its value is the zero of the sign where the exponent is 0,
a NaN's payload and an infinity included as they are (R94). -/
theorem test_loaded_pattern :
    unpackRaw 0x80FFFF00 0x12347F00 0x01FF0000 = ⟨0xFF0000, 0x7F0001, 0x001234, 0x80FFFF⟩ ∧
    loadedValue ⟨0xFF0000, 0x7F0001, 0x001234, 0x80FFFF⟩ = ⟨0xFF0000, 0x7F0001, 0x000000, 0x800000⟩ := by decide

/-- A uniform holds the encoding it was loaded with, exponent 0 included (R251). -/
theorem test_uniform_bit_for_bit :
    (State.reset.putUniform .vs 5 (Vec4.splat 0x801234)).vs.c[5] = Vec4.splat 0x801234 := by decide

/-- A source read is the register itself, bit for bit (R131). -/
theorem test_read_is_register :
    readNarrow { ShaderUnit.reset with v := ShaderUnit.reset.v.set 3 ⟨0x000001, 0x800000, 0x7F0001, 0x80FFFF⟩ } (.v 3) =
      ⟨0x000001, 0x800000, 0x7F0001, 0x80FFFF⟩ := by decide

/-- A unit with its first address register set. -/
def addressed (a : Word) : ShaderUnit := { ShaderUnit.reset with a0x := a }

theorem witness_AddressOffsetRule :
    let off (a : Word) : Int := if -128 ≤ a.toInt ∧ a.toInt ≤ 127 then a.toInt else 0
    (AddrIdx.a0x = .a0x ∧ 0xFFFFFFD6#32 = (addressed 0xFFFFFFD6).a0x) ∧
    ((126 : Nat) : Int) = (((40 : BitVec 7).toNat : Int) + off 0xFFFFFFD6) % 128 ∧
    ((95 : Nat) : Int) = (((95 : BitVec 7).toNat : Int) + off 0xFFFFFF80) % 128 ∧
    ((94 : Nat) : Int) = (((95 : BitVec 7).toNat : Int) + off 0x0000007F) % 128 ∧
    ((95 : Nat) : Int) = (((95 : BitVec 7).toNat : Int) + off 0x00000080) % 128 ∧
    ((96 : Nat) : Int) = (((95 : BitVec 7).toNat : Int) + off 0x00000001) % 128 ∧
    (geometry 0x84000000 State.reset.em).gs.run = .running ∧ State.reset.gs.run ≠ .running := by decide

/-- On the vertex unit, 16 frames or 15, and CC = (true, false). -/
def full : State := { State.reset with vs := { ShaderUnit.reset with stk := List.replicate 16 (plain 6 7 0), ccx := true } }
def roomy : State := { State.reset with vs := { ShaderUnit.reset with stk := List.replicate 15 (plain 6 7 0), ccx := true } }

theorem not_both : ¬ CondHolds roomy.curUnit true true .and := fun h => absurd h.2 (by decide)

theorem not_both_full : ¬ CondHolds full.curUnit true true .and := fun h => absurd h.2 (by decide)

/-- The premises the flow-control statements share: room and no room, the four conditions met and not met. -/
theorem witness_flow :
    (HasRoom roomy ∧ ¬ HasRoom full) ∧
    (CondHolds roomy.curUnit true false .and ∧ CondHolds full.curUnit true false .and ∧
      ¬ CondHolds roomy.curUnit true true .and) ∧
    (CondHolds roomy.curUnit true true .or ∧ ¬ CondHolds roomy.curUnit false true .or) ∧
    (CondHolds roomy.curUnit true true .justX ∧ ¬ CondHolds roomy.curUnit true true .justY) :=
  ⟨⟨by decide, by decide⟩, ⟨⟨rfl, rfl⟩, ⟨rfl, rfl⟩, not_both⟩,
    ⟨.inl rfl, fun h => h.elim (fun e => nomatch e) (fun e => nomatch e)⟩, ⟨rfl, fun e => nomatch e⟩⟩

theorem witness_CallResult :
    (HasRoom roomy ∧ CondHolds roomy.curUnit true false .and) ∧ (¬ HasRoom full ∧ CondHolds full.curUnit true false .and) ∧
    ¬ CondHolds roomy.curUnit true true .and ∧
    (((withUniforms roomy).hregRead (regBuni (withUniforms roomy).cur)).getLsbD 2 = true ∧ HasRoom (withUniforms roomy)) ∧
    (((withUniforms full).hregRead (regBuni (withUniforms full).cur)).getLsbD 2 = true ∧ ¬ HasRoom (withUniforms full)) ∧
    ((withUniforms full).hregRead (regBuni (withUniforms full).cur)).getLsbD 1 = false :=
  ⟨⟨by decide, rfl, rfl⟩, ⟨by decide, rfl, rfl⟩, not_both, ⟨by decide, by decide⟩, ⟨by decide, by decide⟩, by decide⟩

theorem witness_IfResult :
    (HasRoom roomy ∧ ¬ HasRoom full) ∧ (true = true ↔ CondHolds roomy.curUnit true false .and) ∧
    (false = true ↔ CondHolds full.curUnit true true .and) := by
  exact ⟨⟨by decide, by decide⟩, ⟨fun _ => ⟨rfl, rfl⟩, fun _ => rfl⟩, ⟨(fun e => nomatch e), (fun h => absurd h not_both_full)⟩⟩

theorem witness_LoopResult :
    (withUniforms roomy).hregRead (regIuni (withUniforms roomy).cur 0) = 0#8 ++ 1#8 ++ 0#8 ++ 4#8 ∧
    HasRoom (withUniforms roomy) ∧ ¬ HasRoom (withUniforms full) ∧
    (withUniforms full).hregRead (regIuni (withUniforms full).cur 0) = 0#8 ++ 1#8 ++ 0#8 ++ 4#8 := by decide

theorem witness_JumpResult :
    CondHolds roomy.curUnit true true .or ∧ ¬ CondHolds roomy.curUnit false true .or ∧
    ((withUniforms roomy).hregRead (regBuni (withUniforms roomy).cur)).getLsbD 15 = !true ∧ ((withUniforms roomy).hregRead (regBuni (withUniforms roomy).cur)).getLsbD 0 = true :=
  ⟨.inl rfl, fun h => h.elim (fun e => nomatch e) (fun e => nomatch e), by decide, by decide⟩

/-- The geometry unit running, with emitter slot `v`. -/
def emitting (v : BitVec 2) : State := geometry 0xA8000000 { State.reset.em with vertexId := v }

theorem witness_EmitterResult : (emitting 2).cur = .gs ∧ (emitting 2).em.vertexId ≠ 3 := by decide

theorem witness_EmitterRefusals : State.reset.cur = .vs ∧ (emitting 3).cur = .gs ∧ (emitting 3).em.vertexId = 3 := by decide

theorem witness_NoOperationOpcodes : (Instr.unassigned1F, 0x1F) ∈ [(Instr.unassigned10, 0x10), (.unassigned1F, 0x1F)] := by
  decide

theorem witness_EveryInstructionCompletes :
    ((emitting 2).cur = .gs ∧ HasRoom (emitting 2) ∧ (emitting 2).em.vertexId ≠ 3) ∧
    (roomy.cur = .vs ∧ HasRoom roomy ∧ Instr.nop ≠ .emit ∧ ∀ v p w, Instr.nop ≠ .setemit v p w) ∧
    exec (.call 0 0) full = .fault .callStackOverflow :=
  ⟨⟨by decide, by decide, by decide⟩, ⟨by decide, by decide, by decide, fun _ _ _ e => nomatch e⟩, rfl⟩

theorem witness_ShaderWritesOnlyItsOwnState :
    (∃ t, exec .emit (emitting 2) = .next t) ∧ ∃ t, exec (.call 0 0) roomy = .next t := ⟨⟨_, rfl⟩, ⟨_, rfl⟩⟩

theorem witness_SpecialRegisterWriters :
    after (exec (.mova .none (.c 96) 9) (start 0 0 zero zero zero)) (fun t => t.vs.a0x != 2 && t.vs.a0y != 22) = true ∧
    after (exec (.loop 0 0) (start 0 0 zero zero zero)) (fun t => t.vs.al != 33 && t.vs.stk != []) = true ∧
    after (exec (.cmp .eq .ge .none (.v 0) (.r 1) 0) (start 0 0 zero zero zero)) (fun t => t.vs.ccx && t.vs.ccy) = true ∧
    after (exec .endProg (start 0 0 zero zero zero)) (fun t => t.vs.run != .running) = true := by decide

theorem witness_VertexUnitIgnoresGeometryUnit :
    State.reset.cur = .vs ∧ { State.reset with gs := stacked 7 [] }.cur = .vs ∧
    { State.reset with gs := stacked 7 [] }.vs = State.reset.vs ∧ { State.reset with gs := stacked 7 [] }.hreg = State.reset.hreg ∧
    ∃ t, exec .nop State.reset = .next t := ⟨by decide, by decide, rfl, rfl, _, rfl⟩

theorem witness_LoadInputRule :
    ((15 : Fin 16).val < 16 ∧ ∀ j : Fin 16, 15 < j → j.val < 16 → id j ≠ id 15) ∧
    ∀ i : Fin 16, i.val < 15 → id i ≠ (15 : Fin 16) := by decide

theorem witness_VsOutputStagePassthrough :
    let s : State := { State.reset with vs := { ShaderUnit.reset with run := .halted } }
    s.vs.run = .halted ∧ s.gs.run = .idle ∧ s.gp = .passthrough := by decide

theorem witness_GsOutputStage :
    let s : State := { State.reset with gs := { ShaderUnit.reset with run := .halted } }
    s.gs.run = .halted ∧ HregCanonical s.hreg := ⟨rfl, reset_hreg_canonical⟩

/-- Reset with host registers written. -/
def configured (l : List (Nat × Word)) : State := l.foldl (fun s p => s.hregWrite p.1 p.2) State.reset

theorem witness_ReconfigureRule :
    (State.reset.gp.isEmpty = true ∧ State.reset.useGs = 0) ∧
    ((configured [(regGsUse, 2), (regInNum .gs, 15), (regVsOutNum, 7)]).useGs = 2 ∧
      (configured [(regGsUse, 2), (regInNum .gs, 15), (regVsOutNum, 7)]).gsMode = 0 ∧
      (configured [(regGsUse, 2), (regInNum .gs, 15), (regVsOutNum, 7)]).numIn .gs %
        (configured [(regGsUse, 2), (regInNum .gs, 15), (regVsOutNum, 7)]).vsOutNum = 0) ∧
    ((configured [(regGsUse, 2), (regGsConfig, 1)]).useGs = 2 ∧ (configured [(regGsUse, 2), (regGsConfig, 1)]).gsMode = 1) ∧
    ((configured [(regGsUse, 2), (regGsConfig, 0x5F0002)]).gsMode = 2 ∧
      (configured [(regGsUse, 2), (regGsConfig, 0x5F0002)]).fixedStart +
        (configured [(regGsUse, 2), (regGsConfig, 0x5F0002)]).vsOutNum *
          (configured [(regGsUse, 2), (regGsConfig, 0x5F0002)]).fixedVertexNum = 96) := by decide

/-- Reset with a geometry backend. -/
def backed (b : Backend) : State := { State.reset with gp := b }

theorem witness_PointSubmitVertex :
    (backed (.point 2 6 (ShaderUnit.reset.v) 4)).gp = .point 2 6 ShaderUnit.reset.v 4 ∧ 4 + 2 = 6 ∧ 2 + 2 ≠ 6 :=
  ⟨rfl, by decide, by decide⟩

theorem witness_VariableSubmit :
    ((backed (.variablePrim 3 none)).gp = .variablePrim 3 none ∧ (0xFFFF : BitVec 16) ≠ 0) ∧
    ((backed (.variablePrim 3 (some ⟨2, 5, 93⟩))).gp = .variablePrim 3 (some ⟨2, 5, 93⟩) ∧ 93 + 3 ≤ 96 ∧ (2 ≠ 0 ∧ 3 = 3)) ∧
    ((backed (.variablePrim 3 (some ⟨0, 1, 95⟩))).gp = .variablePrim 3 (some ⟨0, 1, 95⟩) ∧ 95 + 1 ≤ 96) :=
  ⟨⟨rfl, by decide⟩, ⟨rfl, by decide, by decide⟩, rfl, by decide⟩

theorem witness_FixedSubmitVertex :
    (backed (.fixedPrim 2 10 16 14)).gp = .fixedPrim 2 10 16 14 ∧ 14 + 2 ≤ 96 ∧ 14 + 2 = 16 ∧ 12 + 2 ≠ 16 :=
  ⟨rfl, by decide, by decide, by decide⟩

theorem witness_ListStripFanTriangles :
    (State.reset.pa.idx = 0 ∧ State.reset.pa.stripReady = false ∧ State.reset.topology = 0) ∧
    ((configured [(regTopology, 0x100)]).topology = 1 ∧ (configured [(regTopology, 0x100)]).pa.idx = 0) ∧
    (configured [(regTopology, 0x200)]).topology = 2 := by decide

theorem witness_ShaderTopologyWinding :
    (configured [(regTopology, 0x300)]).topology = 3 ∧ (configured [(regTopology, 0x300)]).pa.idx = 0 ∧
    (configured [(regTopology, 0x300)]).pa.winding = false := by decide

theorem witness_MaskedRegisterWrite :
    (Config.regfileWords ≤ Config.regfileWords ∧ 0x10000 ≤ 0x10000) ∧ 0x2FF < Config.regfileWords ∧ hostReg 0x2FF = .plain ∧
    HregCanonical State.reset.hreg ∧
    (0x2B4 = regIuni .vs 3 ∧ 0x2B0 = regBuni .vs ∧ State.reset.gsShared = true ∧
      (State.reset.hregWrite regGsShared 1).gsShared = false) :=
  ⟨⟨Nat.le_refl _, Nat.le_refl _⟩, Nat.lt_of_lt_of_le (by decide) (Nat.le_add_right 0x300 _), by decide,
    reset_hreg_canonical, by decide⟩

/-- `P_REGFILE_WORDS` is at least 0x300 and never above 0x10000 (D35, R240). -/
theorem test_register_file_size : 0x300 ≤ Config.regfileWords ∧ Config.regfileWords ≤ 0x10000 := by
  have h := Config.regfileExtra.isLt
  unfold Config.regfileWords
  omega

theorem witness_ProgramAndDescriptorLoad :
    HregCanonical (configured [(regProgOffset .vs, 511), (regSwzOffset .vs, 127)]).hreg ∧
    ((configured [(regProgOffset .vs, 511)]).hregRead (regProgOffset .vs) = 511 ∧ (511 : Word).toNat < 512) ∧
    ((configured [(regProgOffset .vs, 512)]).hregRead (regProgOffset .vs) = 512 ∧ 512 ≤ (512 : Word).toNat) ∧
    ((configured [(regSwzOffset .gs, 127)]).hregRead (regSwzOffset .gs) = 127 ∧ (127 : Word).toNat < 128) ∧
    ((configured [(regSwzOffset .gs, 128)]).hregRead (regSwzOffset .gs) = 128 ∧ 128 ≤ (128 : Word).toNat) :=
  ⟨hregWrite_canonical _ _ _ (hregWrite_canonical _ _ _ reset_hreg_canonical), by decide, by decide, by decide, by decide⟩

theorem witness_FloatUniformLoad :
    HregCanonical (configured [(regFuniSetup .vs, 0x8000005F)]).hreg ∧
    (configured [(regFuniSetup .vs, 0x8000005F)]).hregRead (regFuniSetup .vs) = 0x8000005F#32 ∧
    4 = (if (0x8000005F#32).getLsbD 31 then 4 else 3) ∧ 3 = (if (0x00000060#32).getLsbD 31 then 4 else 3) ∧
    (0x8000005F#32).toNat % 256 < 96 ∧ 96 ≤ (0x00000060#32).toNat % 256 ∧ (configured []).vs.fuN + 1 < 3 ∧
    { ShaderUnit.reset with fuN := 2 }.fuN < 4 ∧ 3 ≤ { ShaderUnit.reset with fuN := 2 }.fuN + 1 :=
  ⟨hregWrite_canonical _ _ _ reset_hreg_canonical, by decide, by decide, by decide, by decide, by decide, by decide, by decide,
    by decide⟩

theorem witness_InterruptAndAssemblerReset :
    (regTopology = regTopology ∨ regTopology = regRestart) ∧ (regRestart = regTopology ∨ regRestart = regRestart) ∧
    HregCanonical State.reset.hreg := ⟨.inl rfl, .inr rfl, reset_hreg_canonical⟩

/-- Guest memory with three words from address 64 on. -/
def mapped : State := { State.reset with
  guest := memWriteWord (memWriteWord (memWriteWord [] 64 0x12345678) 68 0x801F0010) 72 0x9ABCDEF0 }

theorem witness_CommandListDecode :
    memReadWord mapped.guest (64 + 4 * (0 + 0 % 2)) = some 0x12345678#32 ∧
    memReadWord mapped.guest (64 + 4 * (0 + 0 % 2) + 4) = some 0x801F0010#32 ∧
    memReadWord mapped.guest (64 + 4 * 2) = some 0x9ABCDEF0#32 ∧
    (CmdWalk.mk 64 4 0 none).burst = none ∧ (CmdWalk.mk 64 4 0 none).cur < (CmdWalk.mk 64 4 0 none).len ∧
    (CmdWalk.mk 64 4 2 (some ⟨16, 15, true, 1, 1⟩)).burst = some ⟨16, 15, true, 1, 1⟩ ∧ 1 ≤ (Burst.mk 16 15 true 1 1).left ∧
    ((Burst.mk 0x23C 15 false 1 1).left = 1 ∧ regSublistTrigger 0 = (if false then 0x23C + 1 else 0x23C) ∧
      regSublistTrigger 1 = (if true then 0x23C + 1 else 0x23C)) ∧
    (CmdWalk.mk 64 4 4 none).len ≤ (CmdWalk.mk 64 4 4 none).cur ∧
    { mapped with cl := some (CmdWalk.mk 64 4 2 none) }.cl = some (CmdWalk.mk 64 4 2 none) ∧
    { mapped with cl := some (CmdWalk.mk 64 4 2 (some ⟨0x23C, 15, false, 1, 1⟩)) }.cl =
      some (CmdWalk.mk 64 4 2 (some ⟨0x23C, 15, false, 1, 1⟩)) := by decide

/-- A sub-list trigger as the last extra word leaves the cursor at 1 of the new list (R240, R254). -/
theorem test_trigger_as_last_extra_word :
    after ((mapped.hregWrite (regSublistAddr 0) 9).listNext ⟨64, 4, 2, some ⟨0x23B, 15, true, 1, 1⟩⟩)
      (fun t => t.cl = some ⟨72, 0, 1, none⟩) = true := by decide

theorem witness_DrawSequencing :
    let item : LoaderVertex := ⟨5, ShaderUnit.reset.v⟩
    (DrawWalk.mk true [item]).items = item :: [] ∧
    ((DrawWalk.mk true [item]).indexed = true ∧ (backed (.variablePrim 3 none)).gp.needIndex = true) ∧
    (DrawWalk.mk false [item]).indexed = false ∧ State.reset.gp.needIndex = false ∧ (DrawWalk.mk true []).items = [] :=
  ⟨rfl, ⟨rfl, rfl⟩, rfl, rfl, rfl⟩

/-- The draw registers, a Reconfigure that succeeds with and without a need for an index, one that is refused, and
both states of the loader's input. -/
theorem witness_DrawStartRule :
    (regDraw = regDraw ∧ false = false) ∧ (regDrawIndexed = regDrawIndexed ∧ true = true) ∧
    (∃ u, State.reset.reconfigure = .next u ∧ u.gp.needIndex = false) ∧
    (∃ u, (configured [(regGsUse, 2), (regGsConfig, 1)]).reconfigure = .next u ∧ u.gp.needIndex = true) ∧
    (configured [(regGsUse, 1)]).reconfigure = .refused .geometryConfig ∧
    State.reset.loader = [] ∧ { State.reset with loader := [[], []] }.loader = [] :: [[]] :=
  ⟨⟨rfl, rfl⟩, ⟨rfl, rfl⟩, ⟨_, rfl, rfl⟩, ⟨_, rfl, rfl⟩, rfl, rfl, rfl⟩

/-- Two default-attribute words assembled, `n` immediate-mode attributes, index register `w`. -/
def assembling (n : Nat) (first : Bool) (w : Word) : State :=
  { State.reset with daN := 2, immN := n, immFirst := first }.hregWrite regDefattrIndex w

theorem witness_DefaultAttributeDataRule :
    HregCanonical (assembling 0 true 15).hreg ∧ (assembling 0 true 15).daN < 3 ∧ (assembling 0 true 15).daN = 2 ∧
    State.reset.daN < 2 ∧ 15 = ((assembling 0 true 15).hregRead regDefattrIndex).toNat % 16 ∧
    11 = ((assembling 0 true 11).hregRead regDefattrIndex).toNat % 16 ∧
    12 = ((assembling 0 true 12).hregRead regDefattrIndex).toNat % 16 ∧
    14 = ((assembling 0 true 14).hregRead regDefattrIndex).toNat % 16 ∧ (assembling 15 true 15).immN < 16 ∧
    ((assembling 0 true 15).hregWrite (regInNum .vs) 1).immN + 1 < ((assembling 0 true 15).hregWrite (regInNum .vs) 1).numIn .vs ∧
    (assembling 0 true 15).numIn .vs ≤ (assembling 0 true 15).immN + 1 ∧
    ((assembling 0 false 15).immFirst = false ∧ (assembling 0 false 15).gp.needIndex = false) ∧
    ((assembling 0 true 15).immFirst = true ∧ ∃ u, (assembling 0 true 15).reconfigure = .next u ∧ u.gp.needIndex = false) :=
  ⟨hregWrite_canonical _ _ _ reset_hreg_canonical, by decide, by decide, by decide, by decide, by decide, by decide,
    by decide, by decide, by decide, by decide, by decide, rfl, _, rfl, rfl⟩

/-- Three words are always some four raw values (R251). -/
theorem witness_IsUnpacked : IsUnpacked 0x459000BE 0x00004000 0x003F0000 ⟨0x3F0000, 0x400000, 0xBE0000, 0x459000⟩ := by
  unfold IsUnpacked; decide

/-- Encodings and their values, exponent 0 with and without a mantissa among them (R94). -/
theorem witness_IsValueOf : IsValueOf ⟨0x001234, 0x800000, 0x80FFFF, 0x7F0001⟩ ⟨0x000000, 0x800000, 0x800000, 0x7F0001⟩ := by
  unfold IsValueOf; decide

/-- An immediate-mode vertex of one attribute starts the vertex unit with it, bit for bit, in its input register
(R260, R206). -/
theorem test_immediate_vertex :
    after ((assembling 0 true 15).writeReg regDefattrData 0x00001234 15) (fun t =>
      t.vs.run = .running && t.immBuf[0].x = 0x001234 && t.vs.v[0].x = 0x001234 && t.immN = 0 && !t.immFirst) = true := by decide

/-- A draw for which the input names no supply is not stopped (R257). -/
theorem test_draw_without_named_supply :
    after (State.reset.writeReg regDraw 1 15) (fun t => t.draw.isSome && t.loader = []) = true := by decide

theorem witness_GuestWordReadBack :
    memReadByte mapped.guest 64 = some 0x78 ∧ memReadByte mapped.guest 65 = some 0x56 ∧ memReadByte mapped.guest 66 = some 0x34 ∧
    memReadByte mapped.guest 67 = some 0x12 ∧ Memory.wf mapped.guest :=
  ⟨by decide, by decide, by decide, by decide, memWriteWord_wf _ _ _ (memWriteWord_wf _ _ _ (memWriteWord_wf _ _ _ reset_guest_wf))⟩

end Sys2Proof.Tests
end

/-! SUPPORT. Canonical values (R92): what the primitives of Machine/Alu.lean, the operand pipeline and the
free values of Machine/Ops.lean answer. -/

namespace Sys2Proof.Machine

/-! ### Canonical patterns -/

/-- Only a pattern that reads as a zero can fail to be canonical (R91, R92). -/
theorem canonical_of_classF {a : F24} (h : ∀ s, classF a ≠ .zero s) : Canonical a := by
  intro he
  refine absurd ?_ (h (signF a))
  rw [classF_eq, if_pos he]

theorem canonical_of_nan {a : F24} (h : classF a = .nan) : Canonical a :=
  canonical_of_classF fun _ e => nomatch h.symm.trans e

theorem canonical_of_inf {a : F24} {s : Bool} (h : classF a = .inf s) : Canonical a :=
  canonical_of_classF fun _ e => nomatch h.symm.trans e

theorem canonical_of_fin {a : F24} {s : Bool} {e m : Nat} (h : classF a = .fin s e m) : Canonical a :=
  canonical_of_classF fun _ g => nomatch h.symm.trans g

theorem canonical_packF (s : Bool) (e m : Nat) (h1 : 1 ≤ e) (h2 : e ≤ 126) (hm : m < 65536) : Canonical (packF s e m) :=
  canonical_of_fin (classF_packF_fin s e m h1 h2 hm)

theorem canonical_zeroF (s : Bool) : Canonical (zeroF s) := by cases s <;> decide

theorem canonical_infF (s : Bool) : Canonical (infF s) := canonical_of_inf (classF_infF s)

theorem canonical_oneF : Canonical oneF := canonical_of_fin classF_oneF

theorem canonical_nanOfBits (bits : F24) : Canonical (nanOfBits bits) := canonical_of_nan (classF_nanOfBits bits)

theorem canonical_nanResult (src : Config.NanSource) (a b : F24) : Canonical (nanResult src a b) :=
  canonical_of_nan (classF_nanResult src a b)

theorem canonical_f24FromRaw (r : F24) : Canonical (f24FromRaw r) := manF_f24FromRaw r

theorem canonical_res (s : Bool) (n d : Nat) (sz : Bool) (hd : 0 < d) : Canonical (res s n d sz) := by
  rcases res_cases s n d sz hd with h | h | h | ⟨e, m, h1, h2, hm, h⟩ <;> rw [h]
  · exact canonical_zeroF sz
  · exact canonical_zeroF s
  · exact canonical_infF s
  · exact canonical_packF s e m h1 h2 hm

/-- A binary32 load brings in canonical values only (R93). -/
theorem canonical_f24FromF32 (b : Word) : Canonical (f24FromF32 b) := by
  unfold f24FromF32
  dsimp only
  split
  · split
    · exact canonical_infF _
    · exact canonical_nanOfBits _
  · split
    · exact canonical_zeroF _
    · split
      · exact canonical_infF _
      · exact canonical_packF _ _ _ (by omega) (by omega) (by omega)

/-! ### The primitives -/

theorem canonical_fneg {a : F24} (h : Canonical a) : Canonical (fneg a) := by
  obtain ⟨-, he, hm⟩ := fields_fneg a
  intro e
  rw [hm]
  exact h (he ▸ e)

theorem canonical_fadd (a b : F24) : Canonical (fadd a b) := by
  unfold fadd
  split
  · exact canonical_nanResult _ _ _
  · exact canonical_nanResult _ _ _
  · split
    · exact canonical_infF _
    · exact canonical_nanResult _ _ _
  · exact canonical_infF _
  · exact canonical_infF _
  · exact canonical_zeroF _
  · next hb => exact canonical_of_fin hb
  · next ha _ => exact canonical_of_fin ha
  · exact canonical_res _ _ _ _ (Nat.two_pow_pos 78)

theorem canonical_fmul (a b : F24) : Canonical (fmul a b) := by
  unfold fmul
  split
  · exact canonical_nanResult _ _ _
  · exact canonical_nanResult _ _ _
  · exact canonical_zeroF _
  · exact canonical_zeroF _
  · exact canonical_infF _
  · exact canonical_infF _
  · exact canonical_infF _
  · exact canonical_zeroF _
  · exact canonical_zeroF _
  · exact canonical_zeroF _
  · exact canonical_res _ _ _ _ (Nat.two_pow_pos 156)

theorem canonical_fmad (a b c : F24) : Canonical (fmad a b c) := canonical_fadd _ _

theorem canonical_fmax {a b : F24} (ha : Canonical a) (hb : Canonical b) : Canonical (fmax a b) := by
  unfold fmax; split
  · exact ha
  · exact hb

theorem canonical_fmin {a b : F24} (ha : Canonical a) (hb : Canonical b) : Canonical (fmin a b) := by
  unfold fmin; split
  · exact ha
  · exact hb

theorem canonical_ffloor (a : F24) : Canonical (ffloor a) := by
  unfold ffloor
  split
  · next h => exact canonical_of_nan h
  · next h => exact canonical_of_inf h
  · exact canonical_zeroF _
  · exact canonical_res _ _ _ _ (by positivity)

theorem canonical_rcpFin (s : Bool) (e m : Nat) : Canonical (rcpFin s e m) := canonical_res _ _ _ _ (by positivity)

theorem canonical_frcp (a : F24) : Canonical (frcp a) := by
  unfold frcp
  split
  · exact canonical_nanResult _ _ _
  · exact canonical_infF _
  · exact canonical_zeroF _
  · exact canonical_rcpFin _ _ _

/-- The binary digits already found stay in the root. -/
theorem le_isqrtFrom (x bits acc : Nat) : acc ≤ isqrtFrom x bits acc := by
  induction bits generalizing acc with
  | zero => exact Nat.le_refl acc
  | succ bits ih =>
    unfold isqrtFrom
    dsimp only
    refine Nat.le_trans ?_ (ih _)
    split
    · exact Nat.le_add_right _ _
    · exact Nat.le_refl _

/-- The first binary digit of the root is found where its square is below the radicand. -/
theorem isqrtFrom_pos (x bits : Nat) (h : 1 ≤ x) : 0 < isqrtFrom x (bits + 1) 0 := by
  induction bits with
  | zero => simp [isqrtFrom, h]
  | succ bits ih =>
    rw [isqrtFrom]
    split
    · exact Nat.lt_of_lt_of_le (by positivity) (le_isqrtFrom _ _ _)
    · exact ih

theorem sqrt24_pos (e m : Nat) : 0 < (sqrt24 e m).1 := by
  unfold sqrt24
  dsimp only
  have h := isqrtFrom_pos ((65536 + m) * 2 ^ ((e : Int) - 79 - 2 * (((e : Int) - 63) / 2 - 23)).toNat) 23
    (Nat.mul_pos (by omega) (by positivity))
  split <;> omega

theorem canonical_rsqFin (e m : Nat) : Canonical (rsqFin e m) :=
  canonical_res _ _ _ _ (Nat.mul_pos (sqrt24_pos e m) (by positivity))

theorem canonical_frsq (a : F24) : Canonical (frsq a) := by
  unfold frsq
  split
  · exact canonical_nanResult _ _ _
  · exact canonical_infF _
  · exact canonical_nanResult _ _ _
  · exact canonical_zeroF _
  · exact canonical_nanResult _ _ _
  · exact canonical_rsqFin _ _

theorem canonical_pEx2 (a : F24) : Canonical (pEx2 a) := by
  unfold pEx2
  split
  · next h => exact canonical_of_fin h
  · exact canonical_infF _
  · exact canonical_zeroF _

theorem canonical_fex2 (a : F24) : Canonical (fex2 a) := by
  unfold fex2
  split
  · exact canonical_nanResult _ _ _
  · exact canonical_infF _
  · exact canonical_zeroF _
  · exact canonical_pEx2 a
  · exact canonical_pEx2 a

theorem canonical_pLg2 (a : F24) : Canonical (pLg2 a) := by
  unfold pLg2
  split
  · next h => exact canonical_of_fin h
  · exact canonical_zeroF _
  · exact canonical_zeroF _

theorem canonical_flg2 (a : F24) : Canonical (flg2 a) := by
  unfold flg2
  split
  · exact canonical_nanResult _ _ _
  · exact canonical_infF _
  · exact canonical_nanResult _ _ _
  · exact canonical_nanResult _ _ _
  · exact canonical_infF _
  · exact canonical_pLg2 a

theorem canonical_fset (p : Bool) : Canonical (fset p) := by cases p <;> decide

theorem canonical_fsge (a b : F24) : Canonical (fsge a b) := canonical_fset _

theorem canonical_fslt (a b : F24) : Canonical (fslt a b) := canonical_fset _

theorem canonical_fdot3 (a b : Vec4) : Canonical (fdot3 a b) := canonical_fadd _ _

theorem canonical_fdot4 (a b : Vec4) : Canonical (fdot4 a b) := canonical_fadd _ _

/-! ### Registers -/

theorem canonicalVec_splat {a : F24} (h : Canonical a) : CanonicalVec (Vec4.splat a) := ⟨h, h, h, h⟩

theorem canonicalVec_map {f : F24 → F24} (hf : ∀ a, Canonical a → Canonical (f a)) {v : Vec4} (hv : CanonicalVec v) :
    CanonicalVec (v.map f) := by
  obtain ⟨hx, hy, hz, hw⟩ := hv
  exact ⟨hf _ hx, hf _ hy, hf _ hz, hf _ hw⟩

theorem canonicalVec_map2 {f : F24 → F24 → F24} (hf : ∀ a b, Canonical a → Canonical b → Canonical (f a b)) {v w : Vec4}
    (hv : CanonicalVec v) (hw : CanonicalVec w) : CanonicalVec (Vec4.map2 f v w) := by
  obtain ⟨vx, vy, vz, vw⟩ := hv
  obtain ⟨wx, wy, wz, ww⟩ := hw
  exact ⟨hf _ _ vx wx, hf _ _ vy wy, hf _ _ vz wz, hf _ _ vw ww⟩

theorem canonicalVec_lane {v : Vec4} (hv : CanonicalVec v) (n : BitVec 2) : Canonical (v.lane n) := by
  obtain ⟨hx, hy, hz, hw⟩ := hv
  unfold Vec4.lane
  split
  · exact hx
  · split
    · exact hy
    · split
      · exact hz
      · exact hw

theorem canonicalVec_swizzle {v : Vec4} (hv : CanonicalVec v) (sel : BitVec 8) (neg : Bool) :
    CanonicalVec (swizzle v sel neg) := by
  have ht : CanonicalVec ⟨v.lane (sel.extractLsb' 6 2), v.lane (sel.extractLsb' 4 2), v.lane (sel.extractLsb' 2 2),
      v.lane (sel.extractLsb' 0 2)⟩ :=
    ⟨canonicalVec_lane hv _, canonicalVec_lane hv _, canonicalVec_lane hv _, canonicalVec_lane hv _⟩
  unfold swizzle
  dsimp only
  split
  · exact canonicalVec_map (fun _ => canonical_fneg) ht
  · exact ht

theorem canonicalVec_mergeVec {old new : Vec4} (ho : CanonicalVec old) (hn : CanonicalVec new) (mask : BitVec 4) :
    CanonicalVec (mergeVec mask old new) := by
  obtain ⟨ox, oy, oz, ow⟩ := ho
  obtain ⟨nx, ny, nz, nw⟩ := hn
  refine ⟨?_, ?_, ?_, ?_⟩ <;> dsimp only [mergeVec] <;> split <;> assumption

/-! ### Register files -/

theorem canonicalFile_set {n : Nat} {f : Vector Vec4 n} (hf : CanonicalFile f) {v : Vec4} (hv : CanonicalVec v) (i : Nat)
    (hi : i < n) : CanonicalFile (f.set i v hi) := by
  intro j
  rw [Fin.getElem_fin, Vector.getElem_set]
  split
  · exact hv
  · exact hf j

theorem canonicalFile_setIfInBounds {n : Nat} {f : Vector Vec4 n} (hf : CanonicalFile f) {v : Vec4} (hv : CanonicalVec v)
    (i : Nat) : CanonicalFile (f.setIfInBounds i v) := by
  intro j
  rw [Fin.getElem_fin, Vector.getElem_setIfInBounds]
  split
  · exact hv
  · exact hf j

theorem canonicalFile_writeFrom {n : Nat} {f : Vector Vec4 n} (hf : CanonicalFile f) (xs : List Vec4)
    (hx : CanonicalVertex xs) (k : Nat) : CanonicalFile (writeFrom f k xs) := by
  induction xs generalizing f k with
  | nil => exact hf
  | cons x rest ih =>
    exact ih (canonicalFile_setIfInBounds hf (hx x List.mem_cons_self) k)
      (fun v hv => hx v (List.mem_cons_of_mem _ hv)) (k + 1)

theorem canonicalFile_foldl {α : Type} {n : Nat} (l : List α) (step : Vector Vec4 n → α → Vector Vec4 n)
    (hstep : ∀ f a, CanonicalFile f → CanonicalFile (step f a)) {f : Vector Vec4 n} (hf : CanonicalFile f) :
    CanonicalFile (l.foldl step f) := by
  induction l generalizing f with
  | nil => exact hf
  | cons a l ih => exact ih (hstep f a hf)

theorem canonicalFile_loadInput {v a : Vector Vec4 16} (hv : CanonicalFile v) (ha : CanonicalFile a)
    (map : Fin 16 → Fin 16) (n : Nat) : CanonicalFile (loadInput v a map n) := by
  refine canonicalFile_foldl _ _ (fun f i hf => ?_) hv
  split
  · exact canonicalFile_set hf (ha i) _ _
  · exact hf

theorem canonicalVec_freeVec (n : Nat) : CanonicalVec (freeVec n) :=
  ⟨canonical_f24FromRaw _, canonical_f24FromRaw _, canonical_f24FromRaw _, canonical_f24FromRaw _⟩

theorem canonicalFile_freeRegs (n : Nat) : CanonicalFile (freeRegs n) := by
  intro i
  simp only [freeRegs, Fin.getElem_fin, Vector.getElem_ofFn]
  exact canonicalVec_freeVec _

/-- What a draw receives from the vertex loader is canonical whatever the input names (R94, R258). -/
theorem canonicalFile_loadedFile (a : Vector Vec4 16) : CanonicalFile (loadedFile a) := by
  intro i
  rw [getElem_loadedFile]
  exact ⟨canonical_f24FromRaw _, canonical_f24FromRaw _, canonical_f24FromRaw _, canonical_f24FromRaw _⟩

theorem canonicalVertex_packRegs {regs : Vector Vec4 16} (h : CanonicalFile regs) (mask : BitVec 16) :
    CanonicalVertex (packRegs regs mask) := by
  intro v hv
  obtain ⟨i, -, hi⟩ := List.mem_filterMap.mp hv
  split at hi
  · cases hi; exact h i
  · cases hi

theorem canonicalVertex_attrList {a : Vertex} (h : CanonicalVertex a) (free n : Nat) :
    CanonicalVertex (attrList free a n) := by
  intro v hv
  obtain ⟨i, -, rfl⟩ := List.mem_map.mp hv
  unfold attrAt
  rw [List.getD_eq_getElem?_getD]
  by_cases hi : i < a.length
  · rw [List.getElem?_eq_getElem hi]; exact h _ (List.getElem_mem hi)
  · rw [List.getElem?_eq_none (by omega)]; exact canonicalVec_freeVec _

/-- The fields of a binary32 load are canonical (R251). -/
theorem canonicalVec_unpackF32 (w0 w1 w2 w3 : Word) : CanonicalVec (unpackF32 w0 w1 w2 w3) :=
  ⟨canonical_f24FromF32 _, canonical_f24FromF32 _, canonical_f24FromF32 _, canonical_f24FromF32 _⟩

/-! ### Source reads -/

theorem canonicalVec_readNarrow {x : ShaderUnit} (h : UnitCanonical x) (src : NarrowSrc) : CanonicalVec (readNarrow x src) := by
  cases src with
  | v n => exact h.inputs n
  | r n => exact h.temporaries n

theorem canonicalVec_readUniform {x : ShaderUnit} (h : UnitCanonical x) (i : BitVec 7) : CanonicalVec (readUniform x i) := by
  unfold readUniform
  split
  · next hi => exact h.uniforms ⟨i.toNat, hi⟩
  · exact canonicalVec_splat canonical_oneF

theorem canonicalVec_readWide {x : ShaderUnit} (h : UnitCanonical x) (idx : AddrIdx) (src : WideSrc) :
    CanonicalVec (readWide x idx src) := by
  cases src with
  | v n => exact h.inputs n
  | r n => exact h.temporaries n
  | c n => exact canonicalVec_readUniform h _

end Sys2Proof.Machine

/-! SUPPORT. What each instruction that completes does to the unit that executes it, and which instructions write the
special registers (10_state.md R18 to R21). -/

namespace Sys2Proof.Machine

/-! ### What an instruction does -/

/-- The calls and the conditionals, which push a frame (R178 to R182). LOOP, which also sets AL, is not among them. -/
def PushesFrame (i : Instr) : Prop :=
  (∃ target num, i = .call target num) ∨ (∃ x y c target num, i = .callc x y c target num) ∨
  (∃ b target num, i = .callu b target num) ∨ (∃ b target num, i = .ifu b target num) ∨
  (∃ x y c target num, i = .ifc x y c target num)

/-- What the instruction `i` can make of the executing unit `x`. A value that an arithmetic instruction writes is
canonical where the registers of the unit are (R92). -/
inductive UnitEffect (i : Instr) (x : ShaderUnit) : ShaderUnit → Prop where
  | write (dest : Dest) (mask : BitVec 4) (val : Vec4) (hval : UnitCanonical x → CanonicalVec val) :
      UnitEffect i x { writeDest x dest mask val with pc := x.pc + 1 }
  | address (hi : ∃ idx src desc, i = .mova idx src desc) (ax ay : Word) :
      UnitEffect i x { x with a0x := ax, a0y := ay, pc := x.pc + 1 }
  | codes (hi : ∃ cx cy idx src1 src2 desc, i = .cmp cx cy idx src1 src2 desc) (ccx ccy : Bool) :
      UnitEffect i x { x with ccx := ccx, ccy := ccy, pc := x.pc + 1 }
  | goTo (pc : Nat) : UnitEffect i x { x with pc := pc }
  | push (hi : PushesFrame i) (f : Frame) (pc : Nat) : UnitEffect i x { x with stk := f :: x.stk, pc := pc }
  | loop (hi : ∃ n target, i = .loop n target) (al : Word) (f : Frame) (pc : Nat) :
      UnitEffect i x { x with al := al, stk := f :: x.stk, pc := pc }
  | halt (hi : i = .endProg) : UnitEffect i x { x with run := .halted }

/-- Every register in every slot of the emitter is canonical (R92). -/
abbrev EmitterCanonical (em : Emitter) : Prop := ∀ (j : Fin 3) (n : Fin 16), CanonicalVec em.buf[j][n]

/-- Every vertex among the entries of a FIFO is canonical (R92). -/
abbrev EntriesCanonical (es : List VoutEntry) : Prop := ∀ a, VoutEntry.vertex a ∈ es → CanonicalVertex a

/-- What the instruction `i` can make of the state `s`: an effect on the executing unit, with anomalies perhaps; or,
on the geometry unit, a new emitter and entries behind the FIFO (R196 to R199). -/
inductive Effect (i : Instr) (s : State) : State → Prop where
  | ofUnit (x : ShaderUnit) (l : List Anomaly) (hx : UnitEffect i s.curUnit x) :
      Effect i s { s.setCur x with log := s.log ++ l }
  | emitter (em : Emitter) (es : List VoutEntry) (hcur : s.cur = .gs)
      (hcanon : s.AllCanonical → EmitterCanonical em ∧ EntriesCanonical es) :
      Effect i s { s with em := em, vout := s.vout ++ es, gs := { s.gs with pc := s.gs.pc + 1 } }

section
variable {i : Instr} {s t : State}

theorem effect_setCur {x : ShaderUnit} (hx : UnitEffect i s.curUnit x)
    (h : (Host.Outcome.next (s.setCur x) : Result) = .next t) : Effect i s t := by
  have e : t = { s.setCur x with log := s.log ++ [] } := by
    rw [List.append_nil, ← State.log_setCur s x]
    exact (Host.Outcome.next.inj h).symm
  exact e ▸ .ofUnit x [] hx

theorem effect_jump {a : Nat} (h : (Host.Outcome.next (s.jump a) : Result) = .next t) : Effect i s t :=
  effect_setCur (.goTo a) h

theorem effect_raise_advance {a : Anomaly} (h : (Host.Outcome.next (s.raise a).advance : Result) = .next t) :
    Effect i s t := by
  have e : t = { s.setCur { s.curUnit with pc := s.curUnit.pc + 1 } with log := s.log ++ [a] } := by
    rw [← Host.Outcome.next.inj h]
    unfold State.advance State.jump State.setCur
    rw [State.cur_raise, State.curUnit_raise]
    cases s.cur <;> rfl
  exact e ▸ .ofUnit _ [a] (.goTo _)

theorem effect_pushFrame {f : Frame} {a : Nat} (hi : PushesFrame i) (h : s.pushFrame f a = .next t) : Effect i s t := by
  obtain ⟨-, rfl⟩ := (pushFrame_eq_next s t f a).mp h
  exact effect_setCur (.push hi f a) rfl

theorem effect_takeIf {c : Bool} {target : BitVec 12} {num : BitVec 8} (hi : PushesFrame i)
    (h : s.takeIf c target num = .next t) : Effect i s t :=
  effect_pushFrame hi (takeIf_eq s c target num ▸ h)

/-- A call that depends on a condition is made or passed over (R179, R180). -/
theorem effect_callIf {c : Bool} {target : BitVec 12} {num : BitVec 8} (hi : PushesFrame i)
    (h : (if c then s.takeCall target num else .next s.advance) = .next t) : Effect i s t := by
  split at h
  · exact effect_pushFrame hi h
  · exact effect_jump h

/-- A jump that depends on a condition is made or passed over (R184, R185). -/
theorem effect_jumpIf {c : Bool} {a : Nat}
    (h : (Host.Outcome.next (if c then s.jump a else s.advance) : Result) = .next t) : Effect i s t := by
  split at h
  · exact effect_jump h
  · exact effect_jump h

theorem effect_loop {n : Fin 4} {target : BitVec 12} (h : execLoop n target s = .next t) : Effect (.loop n target) s t := by
  rw [execLoop_eq] at h
  split at h
  · exact effect_setCur (.loop ⟨n, target, rfl⟩ _ _ _) h
  · cases h

theorem effect_cmp {cx cy : CmpOp} {idx : AddrIdx} {src1 : WideSrc} {src2 : NarrowSrc} {desc : BitVec 7}
    (h : execCmp cx cy idx src1 src2 desc s = .next t) : Effect (.cmp cx cy idx src1 src2 desc) s t := by
  unfold execCmp at h
  dsimp only at h
  rw [foldl_raise, State.log_setCur] at h
  exact Host.Outcome.next.inj h ▸ .ofUnit _ _ (.codes ⟨_, _, _, _, _, _, rfl⟩ _ _)

/-- The state after EMIT or SETEMIT on the geometry unit. -/
theorem emitter_advance (em : Emitter) (es : List VoutEntry) (hcur : s.cur = .gs) :
    { s with em := em, vout := s.vout ++ es }.advance =
      { s with em := em, vout := s.vout ++ es, gs := { s.gs with pc := s.gs.pc + 1 } } := by
  have hg := (State.cur_eq_gs s).mp hcur
  simp only [State.advance, State.jump, State.setCur, State.curUnit, State.cur, hg, if_true, State.setUnit, State.unit]

theorem effect_setemit {v : BitVec 2} {p w : Bool} (h : execSetemit v p w s = .next t) : Effect i s t := by
  unfold execSetemit at h
  split at h
  · next hcur =>
    have e := emitter_advance { s.em with vertexId := v, primEmit := p, winding := w } [] hcur
    rw [List.append_nil] at e
    rw [e] at h
    have r := Effect.emitter (i := i) { s.em with vertexId := v, primEmit := p, winding := w } [] hcur
      fun hs => ⟨hs.emitter_canonical, fun _ ha => nomatch ha⟩
    rw [List.append_nil] at r
    exact Host.Outcome.next.inj h ▸ r
  · cases h

/-- EMIT pushes its three slots, and nothing else that holds attributes (R197, R199). -/
theorem entriesCanonical_emitEntries {em : Emitter} (h : EmitterCanonical em) (mask : BitVec 16) :
    EntriesCanonical (emitEntries em mask) := by
  intro a ha
  have h3 : a = packRegs em.buf[0] mask ∨ a = packRegs em.buf[1] mask ∨ a = packRegs em.buf[2] mask := by
    unfold emitEntries at ha
    cases em.winding <;> simpa using ha
  rcases h3 with rfl | rfl | rfl
  · exact canonicalVertex_packRegs (h 0) mask
  · exact canonicalVertex_packRegs (h 1) mask
  · exact canonicalVertex_packRegs (h 2) mask

theorem State.AllCanonical.unit (hs : s.AllCanonical) (u : UnitId) : UnitCanonical (s.unit u) := by
  cases u
  · exact hs.vs_canonical
  · exact hs.gs_canonical

/-- The emitter with the output registers of the unit copied into a slot (R198). -/
theorem emitterCanonical_set {em : Emitter} (h : EmitterCanonical em) {o : Vector Vec4 16} (ho : CanonicalFile o)
    (k : Nat) (hk : k < 3) : EmitterCanonical { em with buf := em.buf.set k o hk } := by
  intro j
  simp only [Fin.getElem_fin, Vector.getElem_set]
  split
  · exact ho
  · exact h j

theorem effect_emit (h : execEmit s = .next t) : Effect i s t := by
  unfold execEmit at h
  split at h
  · next hcur =>
    split at h
    · next hk =>
      dsimp only at h
      rw [emitter_advance _ _ hcur] at h
      refine Host.Outcome.next.inj h ▸ .emitter _ _ hcur fun hs => ?_
      have hem := emitterCanonical_set hs.emitter_canonical (hs.unit s.cur).outputs _ hk
      refine ⟨hem, ?_⟩
      split
      · exact entriesCanonical_emitEntries hem _
      · exact fun _ ha => nomatch ha
    · cases h
  · cases h

/-! ### The arithmetic formats -/

theorem effect_finish {dest : Dest} {d : Word} {val : Vec4} (hval : UnitCanonical s.curUnit → CanonicalVec val)
    (h : s.finish dest d val = .next t) : Effect i s t :=
  effect_setCur (.write dest (descMask d) val hval) h

theorem effect_runFormat1 {f : Vec4 → Vec4 → Vec4} (hf : ∀ a b, CanonicalVec a → CanonicalVec b → CanonicalVec (f a b))
    {dest : Dest} {idx : AddrIdx} {src1 : WideSrc} {src2 : NarrowSrc} {desc : BitVec 7}
    (h : runFormat1 f dest idx src1 src2 desc s = .next t) : Effect i s t :=
  effect_finish (fun hx => hf _ _ (canonicalVec_swizzle (canonicalVec_readWide hx idx src1) _ _)
    (canonicalVec_swizzle (canonicalVec_readNarrow hx src2) _ _)) h

theorem effect_runFormat1i {f : Vec4 → Vec4 → Vec4} (hf : ∀ a b, CanonicalVec a → CanonicalVec b → CanonicalVec (f a b))
    {dest : Dest} {idx : AddrIdx} {src1 : NarrowSrc} {src2 : WideSrc} {desc : BitVec 7}
    (h : runFormat1i f dest idx src1 src2 desc s = .next t) : Effect i s t :=
  effect_finish (fun hx => hf _ _ (canonicalVec_swizzle (canonicalVec_readNarrow hx src1) _ _)
    (canonicalVec_swizzle (canonicalVec_readWide hx idx src2) _ _)) h

theorem effect_runFormat1u {f : Vec4 → Vec4} (hf : ∀ a, CanonicalVec a → CanonicalVec (f a))
    {dest : Dest} {idx : AddrIdx} {src1 : WideSrc} {desc : BitVec 7}
    (h : runFormat1u f dest idx src1 desc s = .next t) : Effect i s t :=
  effect_finish (fun hx => hf _ (canonicalVec_swizzle (canonicalVec_readWide hx idx src1) _ _)) h

/-- A multiply-add is canonical whatever its operands are. -/
theorem canonicalVec_map3_fmad (a b c : Vec4) : CanonicalVec (Vec4.map3 fmad a b c) :=
  ⟨canonical_fmad _ _ _, canonical_fmad _ _ _, canonical_fmad _ _ _, canonical_fmad _ _ _⟩

/-- Every instruction that completes has one of the effects above. -/
theorem exec_effect (h : exec i s = .next t) : Effect i s t := by
  cases i
  case add => exact effect_runFormat1 (fun _ _ => canonicalVec_map2 fun a b _ _ => canonical_fadd a b) h
  case mul => exact effect_runFormat1 (fun _ _ => canonicalVec_map2 fun a b _ _ => canonical_fmul a b) h
  case max => exact effect_runFormat1 (fun _ _ => canonicalVec_map2 fun _ _ => canonical_fmax) h
  case min => exact effect_runFormat1 (fun _ _ => canonicalVec_map2 fun _ _ => canonical_fmin) h
  case sge => exact effect_runFormat1 (fun _ _ => canonicalVec_map2 fun a b _ _ => canonical_fsge a b) h
  case slt => exact effect_runFormat1 (fun _ _ => canonicalVec_map2 fun a b _ _ => canonical_fslt a b) h
  case sgei => exact effect_runFormat1i (fun _ _ => canonicalVec_map2 fun a b _ _ => canonical_fsge a b) h
  case slti => exact effect_runFormat1i (fun _ _ => canonicalVec_map2 fun a b _ _ => canonical_fslt a b) h
  case dp3 => exact effect_runFormat1 (fun a b _ _ => canonicalVec_splat (canonical_fdot3 a b)) h
  case dp4 => exact effect_runFormat1 (fun a b _ _ => canonicalVec_splat (canonical_fdot4 a b)) h
  case dph => exact effect_runFormat1 (fun a b _ _ => canonicalVec_splat (canonical_fdot4 (homogeneous a) b)) h
  case dphi => exact effect_runFormat1i (fun a b _ _ => canonicalVec_splat (canonical_fdot4 (homogeneous a) b)) h
  case flr => exact effect_runFormat1u (fun _ => canonicalVec_map fun a _ => canonical_ffloor a) h
  case mov => exact effect_runFormat1u (fun _ ha => ha) h
  case rcp => exact effect_runFormat1u (fun a _ => canonicalVec_splat (canonical_frcp a.x)) h
  case rsq => exact effect_runFormat1u (fun a _ => canonicalVec_splat (canonical_frsq a.x)) h
  case ex2 => exact effect_runFormat1u (fun a _ => canonicalVec_splat (canonical_fex2 a.x)) h
  case lg2 => exact effect_runFormat1u (fun a _ => canonicalVec_splat (canonical_flg2 a.x)) h
  case mad => exact effect_finish (fun _ => canonicalVec_map3_fmad _ _ _) h
  case madi => exact effect_finish (fun _ => canonicalVec_map3_fmad _ _ _) h
  case mova => exact effect_setCur (.address ⟨_, _, _, rfl⟩ _ _) h
  case cmp => exact effect_cmp h
  case nop => exact effect_jump h
  case jmpc => exact effect_jumpIf h
  case jmpu => exact effect_jumpIf h
  case call => exact effect_pushFrame (.inl ⟨_, _, rfl⟩) h
  case callc => exact effect_callIf (.inr (.inl ⟨_, _, _, _, _, rfl⟩)) h
  case callu => exact effect_callIf (.inr (.inr (.inl ⟨_, _, _, rfl⟩))) h
  case ifu => exact effect_takeIf (.inr (.inr (.inr (.inl ⟨_, _, _, rfl⟩)))) h
  case ifc => exact effect_takeIf (.inr (.inr (.inr (.inr ⟨_, _, _, _, _, rfl⟩)))) h
  case loop => exact effect_loop h
  case endProg => exact effect_setCur (.halt rfl) h
  case emit => exact effect_emit h
  case setemit => exact effect_setemit h
  all_goals exact effect_raise_advance h

/-- What an instruction that completes has made of the executing unit. -/
theorem exec_unitEffect (h : exec i s = .next t) : UnitEffect i s.curUnit (t.unit s.cur) := by
  cases exec_effect h with
  | ofUnit x l hx => exact (State.unit_cur_setCur s x).symm ▸ hx
  | emitter em es hcur _ =>
    have hg : s.curUnit = s.gs := by unfold State.curUnit; rw [hcur]; rfl
    rw [hg, hcur]
    exact .goTo (s.gs.pc + 1)

end

/-! ### Who writes the special registers (R18 to R21) -/

section
variable {i : Instr} {x y : ShaderUnit}

theorem UnitEffect.mova_of_address (e : UnitEffect i x y) (h : y.a0x ≠ x.a0x ∨ y.a0y ≠ x.a0y) :
    ∃ idx src desc, i = .mova idx src desc := by
  cases e
  case address hi _ _ => exact hi
  all_goals simp at h

theorem UnitEffect.loop_of_al (e : UnitEffect i x y) (h : y.al ≠ x.al) : ∃ n target, i = .loop n target := by
  cases e
  case loop hi _ _ _ => exact hi
  all_goals simp at h

theorem UnitEffect.cmp_of_codes (e : UnitEffect i x y) (h : y.ccx ≠ x.ccx ∨ y.ccy ≠ x.ccy) :
    ∃ cx cy idx src1 src2 desc, i = .cmp cx cy idx src1 src2 desc := by
  cases e
  case codes hi _ _ => exact hi
  all_goals simp at h

theorem UnitEffect.push_of_stack (e : UnitEffect i x y) (h : y.stk ≠ x.stk) :
    PushesFrame i ∨ ∃ n target, i = .loop n target := by
  cases e
  case push hi _ _ => exact .inl hi
  case loop hi _ _ _ => exact .inr hi
  all_goals simp at h

theorem UnitEffect.endProg_of_run (e : UnitEffect i x y) (h : y.run ≠ x.run) : i = .endProg := by
  cases e
  case halt hi => exact hi
  all_goals simp at h

end

/-- Settles O42, by the effect that an instruction has on the executing unit. -/
theorem specialRegisterWriters : Obligations.SpecialRegisterWriters := by
  unfold Obligations.SpecialRegisterWriters
  intro i s t h
  have e := exec_unitEffect h
  refine ⟨e.mova_of_address, e.loop_of_al, e.cmp_of_codes, fun hstk => ?_, e.endProg_of_run⟩
  simpa only [PushesFrame, or_assoc] using e.push_of_stack hstk

end Sys2Proof.Machine

/-! SUPPORT. What the operations of the block keep: the invariant `State.Legal`, and canonical values
(`State.AllCanonical`) under a condition that the raw loads of the host port need (R92, R251, R260). -/

namespace Sys2Proof.Machine

/-! ### Keeping both invariants -/

/-- Between `s` and `t` the invariant is kept, and under the condition `p` canonical values are kept as well. -/
structure Keeps (p : Prop) (s t : State) : Prop where
  legal : s.Legal → t.Legal
  canonical : p → s.AllCanonical → t.AllCanonical

section
variable {p : Prop} {s t u : State}

theorem Keeps.refl (s : State) : Keeps p s s := ⟨id, fun _ => id⟩

theorem Keeps.trans (h : Keeps p s t) (g : Keeps p t u) : Keeps p s u :=
  ⟨fun hs => g.legal (h.legal hs), fun hp hs => g.canonical hp (h.canonical hp hs)⟩

/-- What is canonical at the start may be used on the way. -/
theorem Keeps.assume (h : Keeps (p ∧ s.AllCanonical) s t) : Keeps p s t :=
  ⟨h.legal, fun hp hs => h.canonical ⟨hp, hs⟩ hs⟩

/-! ### Replacing a unit -/

theorem UnitLegal.of_same {v : UnitId} {x y : ShaderUnit} (h : UnitLegal v x) (hprog : y.prog = x.prog)
    (hswz : y.swz = x.swz) (hstk : y.stk.length ≤ Config.callStackDepth) (hfuN : y.fuN = x.fuN) : UnitLegal v y where
  prog_rising := hprog ▸ h.prog_rising
  prog_inRange := hprog ▸ h.prog_inRange
  swz_rising := hswz ▸ h.swz_rising
  swz_inRange := hswz ▸ h.swz_inRange
  stack_bounded := hstk
  assembly_bounded := hfuN ▸ h.assembly_bounded

theorem State.Legal.unit (h : s.Legal) (v : UnitId) : UnitLegal v (s.unit v) := by
  cases v
  · exact h.vs_legal
  · exact h.gs_legal

/-- A unit is replaced by a legal one, which is as busy as the old one, or idle, or the only one that is busy. -/
theorem State.Legal.setUnit (h : s.Legal) {v : UnitId} {x : ShaderUnit} (hx : UnitLegal v x)
    (hrun : x.run = (s.unit v).run ∨ x.run = .idle ∨ ∀ w, w ≠ v → (s.unit w).run = .idle) : (s.setUnit v x).Legal := by
  cases v
  case vs =>
    refine { h with vs_legal := hx, one_unit := ?_ }
    rcases hrun with e | e | e
    · exact h.one_unit.imp_left fun hi => e.trans hi
    · exact .inl e
    · exact .inr (e .gs (by decide))
  case gs =>
    refine { h with gs_legal := hx, one_unit := ?_ }
    rcases hrun with e | e | e
    · exact h.one_unit.imp_right fun hi => e.trans hi
    · exact .inr e
    · exact .inl (e .vs (by decide))

theorem State.AllCanonical.setUnit (h : s.AllCanonical) {v : UnitId} {x : ShaderUnit} (hx : UnitCanonical x) :
    (s.setUnit v x).AllCanonical := by
  cases v
  · exact { h with vs_canonical := hx }
  · exact { h with gs_canonical := hx }

theorem keeps_setUnit {v : UnitId} {x : ShaderUnit} (hl : UnitLegal v (s.unit v) → UnitLegal v x)
    (hrun : x.run = (s.unit v).run ∨ x.run = .idle ∨ ∀ w, w ≠ v → (s.unit w).run = .idle)
    (hc : p → UnitCanonical (s.unit v) → UnitCanonical x) : Keeps p s (s.setUnit v x) :=
  ⟨fun h => h.setUnit (hl (h.unit v)) hrun, fun hp h => h.setUnit (hc hp (h.unit v))⟩

/-! ### Instructions -/

theorem UnitLegal.unitStep {v : UnitId} {x y : ShaderUnit} (h : UnitLegal v x) (e : UnitStep x y) : UnitLegal v y := by
  refine h.of_same e.prog e.swz ?_ e.fuN
  rcases e.stk with hstk | ⟨f, hstk, hroom⟩
  · exact hstk ▸ h.stack_bounded
  · exact hstk ▸ hroom

/-- The frame check keeps both invariants (R171). -/
theorem keeps_frameChecked (s : State) : Keeps p s s.frameChecked :=
  keeps_setUnit
    (fun h => h.of_same (prog_frameCheck _) (swz_frameCheck _) (Nat.le_trans (length_stk_frameCheck _) h.stack_bounded)
      (fuN_frameCheck _))
    (.inl (run_frameCheck _))
    fun _ h => ⟨r_frameCheck s.curUnit ▸ h.temporaries, o_frameCheck s.curUnit ▸ h.outputs,
      v_frameCheck s.curUnit ▸ h.inputs, c_frameCheck s.curUnit ▸ h.uniforms⟩

theorem exec_legal {i : Instr} (hs : s.Legal) (hidle : ∀ w, w ≠ s.cur → (s.unit w).run = .idle) (h : exec i s = .next t) :
    t.Legal := by
  rcases exec_next_cases i s t h with ⟨x, l, rfl, hx⟩ | ⟨hcur, em, es, rfl⟩
  · exact { State.Legal.setUnit hs ((hs.unit s.cur).unitStep hx) (.inr (.inr hidle)) with }
  · exact { hs with gs_legal := { hs.gs_legal with } }

theorem canonicalFile_writeDest_o {x : ShaderUnit} (h : UnitCanonical x) (dest : Dest) (mask : BitVec 4) {val : Vec4}
    (hval : CanonicalVec val) : CanonicalFile (writeDest x dest mask val).o := by
  cases dest with
  | o n => exact canonicalFile_set h.outputs (canonicalVec_mergeVec (h.outputs n) hval mask) n.val n.isLt
  | r n => exact h.outputs

theorem canonicalFile_writeDest_r {x : ShaderUnit} (h : UnitCanonical x) (dest : Dest) (mask : BitVec 4) {val : Vec4}
    (hval : CanonicalVec val) : CanonicalFile (writeDest x dest mask val).r := by
  cases dest with
  | o n => exact h.temporaries
  | r n => exact canonicalFile_set h.temporaries (canonicalVec_mergeVec (h.temporaries n) hval mask) n.val n.isLt

theorem UnitEffect.canonical {i : Instr} {x y : ShaderUnit} (e : UnitEffect i x y) (h : UnitCanonical x) :
    UnitCanonical y := by
  cases e
  case write dest mask val hval =>
    exact ⟨canonicalFile_writeDest_r h dest mask (hval h), canonicalFile_writeDest_o h dest mask (hval h),
      v_writeDest x dest mask val ▸ h.inputs, c_writeDest x dest mask val ▸ h.uniforms⟩
  all_goals exact { h with }

theorem exec_canonical {i : Instr} (hs : s.AllCanonical) (h : exec i s = .next t) : t.AllCanonical := by
  cases exec_effect h with
  | ofUnit x l hx => exact { State.AllCanonical.setUnit hs (v := s.cur) (hx.canonical (hs.unit s.cur)) with }
  | emitter em es hcur hcanon =>
    obtain ⟨hem, hes⟩ := hcanon hs
    exact { hs with
      gs_canonical := { hs.gs_canonical with }
      emitter_canonical := hem
      fifo_canonical := fun a ha => (List.mem_append.mp ha).elim (hs.fifo_canonical a) (hes a) }

/-- Where a unit runs, the other one is idle (R207). -/
theorem State.Legal.others_idle (hs : s.Legal)
    (hrun : s.gs.run = .running ∨ (s.gs.run = .idle ∧ s.vs.run = .running)) :
    ∀ w, w ≠ s.cur → (s.unit w).run = .idle := by
  intro w hw
  rcases hrun with hg | ⟨hg, -⟩
  · cases w
    case vs => exact hs.one_unit.resolve_right (by rw [hg]; decide)
    case gs => exact absurd ((State.cur_eq_gs s).mpr hg).symm hw
  · cases w
    case vs => exact absurd ((State.cur_eq_vs s).mpr (by rw [hg]; decide)).symm hw
    case gs => exact hg

/-- The step of a running unit keeps both invariants, on any values (R170). -/
theorem keeps_runUnit (hrun : s.gs.run = .running ∨ (s.gs.run = .idle ∧ s.vs.run = .running)) (h : runUnit s = .next t) :
    Keeps p s t := by
  obtain ⟨w, -, hexec⟩ := (runUnit_eq_next s t).mp h
  have hchecked := keeps_frameChecked (p := p) s
  refine ⟨fun hs => exec_legal (hchecked.legal hs) (fun w hw => ?_) hexec,
    fun hp hs => exec_canonical (hchecked.canonical hp hs) hexec⟩
  rw [State.cur_frameChecked] at hw
  rw [State.frameChecked, State.unit_setCur_other s _ w hw]
  exact hs.others_idle hrun w hw

/-! ### Small changes of the state -/

theorem keeps_raise (s : State) (a : Anomaly) : Keeps p s (s.raise a) := ⟨fun h => { h with }, fun _ h => { h with }⟩

theorem keeps_fresh (s : State) (n : Nat) : Keeps p s { s with fresh := n } :=
  ⟨fun h => { h with }, fun _ h => { h with }⟩

theorem keeps_hregWrite (s : State) (id : Nat) (w : Word) : Keeps p s (s.hregWrite id w) :=
  ⟨fun h => { h with hreg_canonical := hregWrite_canonical s id w h.hreg_canonical }, fun _ h => { h with }⟩

/-- A change of the walk to one whose run of extra words, if any, is not empty (R240). -/
theorem keeps_cl (s : State) {cl : Option CmdWalk} (h : ∀ c b, cl = some c → c.burst = some b → 0 < b.left) :
    Keeps p s { s with cl := cl } :=
  ⟨fun hs => { hs with burst_nonempty := h }, fun _ hs => { hs with }⟩

theorem keeps_cursorNext (s : State) : Keeps p s s.cursorNext := by
  refine ⟨fun h => { h with burst_nonempty := fun c b hc hb => ?_ }, fun _ h => { h with }⟩
  obtain ⟨c', hc', rfl⟩ := Option.map_eq_some_iff.mp hc
  exact h.burst_nonempty c' b hc' hb

/-! ### Invocations (R205, R206) -/

/-- The invocation start of a unit, while the other one is idle. -/
theorem keeps_startUnit {v : UnitId} (hidle : ∀ w, w ≠ v → (s.unit w).run = .idle) : Keeps p s (s.startUnit v) := by
  unfold State.startUnit
  refine (keeps_setUnit ?_ (.inr (.inr hidle)) ?_).trans (keeps_fresh _ _)
  · exact fun h => h.of_same rfl rfl (Nat.zero_le _) rfl
  · exact fun _ h => ⟨canonicalFile_freeRegs s.fresh, canonicalFile_freeRegs (s.fresh + 64), h.inputs, h.uniforms⟩

theorem keeps_loadUnit {v : UnitId} {a : Vector Vec4 16} {n : Nat} (ha : p → CanonicalFile a) :
    Keeps p s (s.loadUnit v a n) :=
  keeps_setUnit (fun h => { h with }) (.inl rfl) fun hp h =>
    { h with inputs := canonicalFile_loadInput h.inputs (ha hp) _ _ }

theorem keeps_startVs {a : Vector Vec4 16} (hidle : s.gs.run = .idle) (ha : p → CanonicalFile a) : Keeps p s (s.startVs a) := by
  refine (keeps_loadUnit ha).trans (keeps_startUnit fun w hw => ?_)
  cases w
  case vs => exact absurd rfl hw
  case gs => exact hidle

theorem keeps_invokeGs (hidle : s.vs.run = .idle) : Keeps p s s.invokeGs := by
  refine keeps_startUnit fun w hw => ?_
  cases w
  case vs => exact hidle
  case gs => exact absurd rfl hw

/-! ### The geometry pipeline (R210 to R224) -/

/-- The Point buffer, if the backend has one, is canonical (R92). -/
abbrev BackendCanonical (b : Backend) : Prop := ∀ vsOut inNum buf cur, b = .point vsOut inNum buf cur → CanonicalFile buf

theorem numIn_le (s : State) (v : UnitId) : s.numIn v ≤ 16 := (field (s.hregRead (regInNum v)) 0 4).isLt

/-- A place below the end of a window, both at a distance from its start that is a number of vertices, is a vertex
or more below the end. -/
theorem add_le_of_mod {v a b : Nat} (ha : a % v = 0) (hb : b % v = 0) (h : a < b) : a + v ≤ b := by
  have hd : v ∣ b - a := Nat.dvd_sub (Nat.dvd_of_mod_eq_zero hb) (Nat.dvd_of_mod_eq_zero ha)
  have hle := Nat.le_of_dvd (by omega) hd
  omega

/-- What the configuration selects is as R212, R217 and R220 allow. -/
theorem backendLegal_selectBackend {b : Backend} (h : s.selectBackend = some b) : BackendLegal b := by
  have hv : 0 < s.vsOutNum := Nat.succ_pos _
  have hn : 0 < s.numIn .gs := Nat.succ_pos _
  have hf : 0 < s.fixedVertexNum := Nat.succ_pos _
  unfold State.selectBackend at h
  split at h
  · cases h; trivial
  · split at h
    · split at h
      · split at h
        · next hmod => cases h; exact ⟨hv, numIn_le s .gs, hmod, Nat.zero_mod _, hn⟩
        · cases h
      · split at h
        · cases h; exact ⟨hv, fun _ e => nomatch e⟩
        · split at h
          · split at h
            · next hend =>
              cases h
              have hw := Nat.mul_pos hv hf
              refine ⟨hv, hend, Nat.le_refl _, by omega, ?_, ?_⟩
              · rw [Nat.add_sub_cancel_left, Nat.mul_mod_right]
              · rw [Nat.sub_self, Nat.zero_mod]
            · cases h
          · cases h
    · cases h

theorem backendCanonical_selectBackend {b : Backend} (h : s.selectBackend = some b) : BackendCanonical b := by
  rintro vsOut inNum buf cur rfl
  unfold State.selectBackend at h
  repeat' split at h
  all_goals cases h
  exact canonicalFile_freeRegs _

theorem keeps_reconfigure (h : s.reconfigure = .next t) : Keeps p s t := by
  obtain ⟨-, b, hb, rfl⟩ := (reconfigure_eq_next s t).mp h
  exact ⟨fun hs => { hs with backend_legal := backendLegal_selectBackend hb },
    fun _ hs => { hs with point_canonical := backendCanonical_selectBackend hb }⟩

theorem run_reconfigure (h : s.reconfigure = .next t) : t.gs.run = s.gs.run := by
  obtain ⟨-, b, -, rfl⟩ := (reconfigure_eq_next s t).mp h
  rfl

theorem keeps_gpSubmitIndex {n : BitVec 16} (h : s.gpSubmitIndex n = .next t) : Keeps p s t := by
  obtain ⟨hn, vsOut, hgp, rfl⟩ := (gpSubmitIndex_eq_next s t n).mp h
  have hpos : 0 < n.toNat := Nat.pos_of_ne_zero fun e => hn (BitVec.eq_of_toNat_eq e)
  refine ⟨fun hs => ?_, fun _ hs => ?_⟩
  · have hv : 0 < vsOut := by
      have hb := hs.backend_legal
      rw [hgp] at hb
      exact hb.1
    exact { hs with
      gs_legal := { hs.gs_legal with }
      backend_legal := ⟨hv, fun q e => by cases e; exact hpos⟩ }
  · exact { hs with
      gs_canonical := { hs.gs_canonical with
        uniforms := canonicalFile_set hs.gs_canonical.uniforms (canonicalVec_splat (canonical_f24FromF32 _)) 0 (by decide) }
      point_canonical := fun _ _ _ _ e => nomatch e }

/-- `s` with a new backend and new uniforms and inputs of the geometry unit, as a submitted vertex leaves them. -/
def State.filled (s : State) (b : Backend) (c : Vector Vec4 96) (v : Vector Vec4 16) : State :=
  { s with fresh := s.fresh + 64, gp := b, gs := { s.gs with c := c, v := v } }

/-- What a submitted vertex can do (R224): it goes to the FIFO, or it is buffered, and then the geometry unit may
start. -/
inductive Submitted (s : State) (a : Vertex) : State → Prop where
  | forwarded : Submitted s a { s with vout := s.vout ++ [.vertex a] }
  | buffered (b : Backend) (c : Vector Vec4 96) (v : Vector Vec4 16) (hlegal : BackendLegal s.gp → BackendLegal b)
      (hcanon : s.AllCanonical → CanonicalVertex a → BackendCanonical b ∧ CanonicalFile c ∧ CanonicalFile v) (start : Bool) :
      Submitted s a (if start then (s.filled b c v).invokeGs else s.filled b c v)

/-- A vertex that goes to float uniforms of the geometry unit is buffered, with uniforms written that are canonical
where the vertex is (R217, R221). -/
theorem submitted_writeGsUniforms {a : Vertex} {b : Backend} {k n : Nat} {start : Bool}
    (hlegal : BackendLegal s.gp → BackendLegal b) (hcanon : BackendCanonical b)
    (h : seqR (State.writeGsUniforms { s with fresh := s.fresh + 64, gp := b } k (attrList s.fresh a n))
      (fun x => .next (if start then x.invokeGs else x)) = .next t) : Submitted s a t := by
  obtain ⟨x, hx, hnext⟩ := (seqR_eq_next _ _ _).mp h
  obtain ⟨-, rfl⟩ := (writeGsUniforms_eq_next _ _ _ _).mp hx
  exact Host.Outcome.next.inj hnext ▸ .buffered b (writeFrom s.gs.c k (attrList s.fresh a n)) s.gs.v hlegal
    (fun hs ha => ⟨hcanon, canonicalFile_writeFrom hs.gs_canonical.uniforms _ (canonicalVertex_attrList ha _ _) _,
      hs.gs_canonical.inputs⟩) start

theorem gpSubmitVertex_cases {a : Vertex} (h : s.gpSubmitVertex a = .next t) : Submitted s a t := by
  unfold State.gpSubmitVertex at h
  split at h
  case h_1 => cases h; exact .forwarded
  case h_2 vsOut inNum buf cur hgp =>
    have hbuf : s.AllCanonical → CanonicalVertex a → CanonicalFile (writeFrom buf cur (attrList s.fresh a vsOut)) :=
      fun hs ha => canonicalFile_writeFrom (hs.point_canonical _ _ _ _ hgp) _ (canonicalVertex_attrList ha _ _) _
    dsimp only at h
    split at h
    · cases h
      refine Submitted.buffered (.point vsOut inNum _ 0) s.gs.c (loadInput s.gs.v _ (s.inMap .gs) inNum) ?_
        (fun hs ha => ⟨fun _ _ _ _ e => by cases e; exact hbuf hs ha, hs.gs_canonical.uniforms,
          canonicalFile_loadInput hs.gs_canonical.inputs (hbuf hs ha) _ _⟩) true
      rw [hgp]
      rintro ⟨hv, hn, hmod, -, hlt⟩
      exact ⟨hv, hn, hmod, Nat.zero_mod _, by omega⟩
    · next hne =>
      cases h
      refine Submitted.buffered (.point vsOut inNum _ (cur + vsOut)) s.gs.c s.gs.v ?_
        (fun hs ha => ⟨fun _ _ _ _ e => by cases e; exact hbuf hs ha, hs.gs_canonical.uniforms,
          hs.gs_canonical.inputs⟩) false
      rw [hgp]
      rintro ⟨hv, hn, hmod, hcur, hlt⟩
      have hle := add_le_of_mod hcur hmod hlt
      exact ⟨hv, hn, hmod, by rw [Nat.add_mod_right]; exact hcur, by omega⟩
  case h_3 => cases h
  case h_4 vsOut q hgp =>
    refine submitted_writeGsUniforms (start := decide (q.totalLeft = 1)) ?_ ?_
      (by simpa only [decide_eq_true_eq] using h)
    case refine_2 => exact fun _ _ _ _ e => nomatch e
    rw [hgp]
    rintro ⟨hv, hq⟩
    have hpos := hq q rfl
    refine ⟨hv, fun r hr => ?_⟩
    split at hr
    · cases hr
    · cases hr
      show 0 < q.totalLeft - 1
      omega
  case h_5 vsOut first last cur hgp =>
    refine submitted_writeGsUniforms (start := decide (cur + vsOut = last)) ?_ ?_
      (by simpa only [decide_eq_true_eq] using h)
    case refine_2 => exact fun _ _ _ _ e => nomatch e
    rw [hgp]
    rintro ⟨hv, hlast, hfirst, hlt, hsize, hcur⟩
    have hle := add_le_of_mod hcur hsize (by omega)
    split
    · exact ⟨hv, hlast, Nat.le_refl _, by omega, hsize, by rw [Nat.sub_self, Nat.zero_mod]⟩
    · refine ⟨hv, hlast, by omega, by omega, hsize, ?_⟩
      rw [Nat.sub_add_comm hfirst, Nat.add_mod_right]
      exact hcur

theorem keeps_filled {b : Backend} {c : Vector Vec4 96} {v : Vector Vec4 16} (hlegal : BackendLegal s.gp → BackendLegal b)
    (hcanon : p → s.AllCanonical → BackendCanonical b ∧ CanonicalFile c ∧ CanonicalFile v) : Keeps p s (s.filled b c v) := by
  refine ⟨fun h => { h with gs_legal := { h.gs_legal with }, backend_legal := hlegal h.backend_legal }, fun hp h => ?_⟩
  obtain ⟨hb, hc, hv⟩ := hcanon hp h
  exact { h with gs_canonical := { h.gs_canonical with uniforms := hc, inputs := hv }, point_canonical := hb }

/-- Submitting a vertex keeps both invariants while the vertex unit is idle. -/
theorem keeps_gpSubmitVertex {a : Vertex} (hidle : s.vs.run = .idle) (ha : p → s.AllCanonical → CanonicalVertex a)
    (h : s.gpSubmitVertex a = .next t) : Keeps p s t := by
  cases gpSubmitVertex_cases h with
  | forwarded =>
    refine ⟨fun hs => { hs with }, fun hp hs => { hs with fifo_canonical := fun v hv => ?_ }⟩
    rcases List.mem_append.mp hv with hv | hv
    · exact hs.fifo_canonical v hv
    · cases List.mem_singleton.mp hv; exact ha hp hs
  | buffered b c v hlegal hcanon start =>
    have hk : Keeps p s (s.filled b c v) := keeps_filled hlegal fun hp hs => hcanon hs (ha hp hs)
    cases start
    · exact hk
    · exact hk.trans (keeps_invokeGs hidle)

/-! ### Output stages (R208, R209) -/

theorem keeps_vsOutputStage (h : s.vsOutputStage = .next t) : Keeps p s t := by
  have hk : Keeps p s (s.setUnit .vs { s.vs with run := .idle }) :=
    keeps_setUnit (fun h => { h with }) (.inr (.inl rfl)) fun _ h => { h with }
  exact hk.trans (keeps_gpSubmitVertex rfl (fun _ hs => canonicalVertex_packRegs hs.vs_canonical.outputs _) h)

theorem keeps_gsOutputStage (h : s.gsOutputStage = .next t) : Keeps p s t := by
  cases h
  have hk : Keeps p s (s.setUnit .gs { s.gs with run := .idle }) :=
    keeps_setUnit (fun h => { h with }) (.inr (.inl rfl)) fun _ h => { h with }
  exact hk.trans (keeps_hregWrite _ _ _)

/-! ### The primitive assembler (R228 to R234) -/

/-- The assembler's two vertices are canonical (R92). -/
abbrev AssemblerCanonical (q : Assembler) : Prop := CanonicalVertex q.buf0 ∧ CanonicalVertex q.buf1

/-- The three vertices of each triangle are canonical (R92). -/
abbrev TrianglesCanonical (ts : List Triangle) : Prop :=
  ∀ t ∈ ts, CanonicalVertex t.v0 ∧ CanonicalVertex t.v1 ∧ CanonicalVertex t.v2

section
variable {q : Assembler} {a : Vertex}

theorem assemblerCanonical_put (hq : AssemblerCanonical q) (ha : CanonicalVertex a) : AssemblerCanonical (q.put a) := by
  obtain ⟨h0, h1⟩ := hq
  unfold Assembler.put
  split
  · exact ⟨ha, h1⟩
  · split
    · exact ⟨h0, ha⟩
    · exact ⟨h0, h1⟩

theorem trianglesCanonical_nil : TrianglesCanonical [] := fun _ h => nomatch h

theorem trianglesCanonical_singleton {v0 v1 v2 : Vertex} (h0 : CanonicalVertex v0) (h1 : CanonicalVertex v1)
    (h2 : CanonicalVertex v2) : TrianglesCanonical [⟨v0, v1, v2⟩] := by
  intro t ht
  cases List.mem_singleton.mp ht
  exact ⟨h0, h1, h2⟩

theorem trianglesCanonical_readyTriangle (hq : AssemblerCanonical q) (ha : CanonicalVertex a) :
    TrianglesCanonical (readyTriangle q a) := by
  unfold readyTriangle
  split
  · exact trianglesCanonical_singleton hq.1 hq.2 ha
  · exact trianglesCanonical_nil

/-- What a submission to the assembler `q` answers, the assembler after it and the triangles put out: the count is at
most two (assumption 25), and values stay canonical. -/
def Accepts (q : Assembler) (a : Vertex) (x : Assembler × List Triangle) : Prop :=
  x.1.idx ≤ 2 ∧ (AssemblerCanonical q → CanonicalVertex a → AssemblerCanonical x.1 ∧ TrianglesCanonical x.2)

theorem accepts_submitList (q : Assembler) (a : Vertex) : Accepts q a (submitList q a) := by
  unfold submitList
  split
  · exact ⟨by dsimp only; omega, fun hq ha => ⟨assemblerCanonical_put hq ha, trianglesCanonical_nil⟩⟩
  · exact ⟨Nat.zero_le 2, fun hq ha => ⟨hq, trianglesCanonical_singleton hq.1 hq.2 ha⟩⟩

theorem accepts_submitStrip (q : Assembler) (a : Vertex) : Accepts q a (submitStrip q a) :=
  ⟨Nat.le_trans (Nat.sub_le 1 q.idx) (by decide),
    fun hq ha => ⟨assemblerCanonical_put hq ha, trianglesCanonical_readyTriangle hq ha⟩⟩

theorem accepts_submitFan (q : Assembler) (a : Vertex) : Accepts q a (submitFan q a) :=
  ⟨Nat.le_succ 1, fun hq ha => ⟨assemblerCanonical_put hq ha, trianglesCanonical_readyTriangle hq ha⟩⟩

theorem accepts_submitShader (q : Assembler) (a : Vertex) : Accepts q a (submitShader q a) := by
  unfold submitShader
  split
  · exact ⟨by dsimp only; omega, fun hq ha => ⟨assemblerCanonical_put hq ha, trianglesCanonical_nil⟩⟩
  · split
    · exact ⟨Nat.zero_le 2, fun hq ha => ⟨hq, trianglesCanonical_singleton hq.2 hq.1 ha⟩⟩
    · exact ⟨Nat.zero_le 2, fun hq ha => ⟨hq, trianglesCanonical_singleton hq.1 hq.2 ha⟩⟩

theorem accepts_submitTopology {value : Nat} {x : Assembler × List Triangle} (h : submitTopology value q a = some x) :
    Accepts q a x := by
  unfold submitTopology at h
  split at h
  · exact Option.some.inj h ▸ accepts_submitList q a
  · split at h
    · exact Option.some.inj h ▸ accepts_submitStrip q a
    · split at h
      · exact Option.some.inj h ▸ accepts_submitFan q a
      · split at h
        · exact Option.some.inj h ▸ accepts_submitShader q a
        · cases h

theorem keeps_paSubmit {value : Nat} (ha : p → CanonicalVertex a) : Keeps p s (s.paSubmit value a) := by
  unfold State.paSubmit
  split
  · next r ts h =>
    obtain ⟨hidx, hcanon⟩ := accepts_submitTopology h
    refine ⟨fun hs => { hs with assembler_bounded := hidx }, fun hp hs => ?_⟩
    obtain ⟨hr, hts⟩ := hcanon hs.assembler_canonical (ha hp)
    exact { hs with
      assembler_canonical := hr
      triangles_canonical := fun x hx => (List.mem_append.mp hx).elim (hs.triangles_canonical x) (hts x) }
  · exact keeps_raise s _

end

theorem keeps_windingMarker (s : State) : Keeps p s (s.paConsume .windingMarker) :=
  ⟨fun hs => { hs with }, fun _ hs => { hs with }⟩

/-- The first entry of the FIFO is consumed (R225, R228). -/
theorem keeps_consume {e : VoutEntry} {rest : List VoutEntry} (hv : s.vout = e :: rest) :
    Keeps p s ({ s with vout := rest }.paConsume e) := by
  have hpop : Keeps (p ∧ s.AllCanonical) s { s with vout := rest } :=
    ⟨fun hs => { hs with }, fun _ hs => { hs with
      fifo_canonical := fun a ha => hs.fifo_canonical a (hv ▸ List.mem_cons_of_mem e ha) }⟩
  cases e with
  | windingMarker => exact (hpop.trans (keeps_windingMarker _)).assume
  | vertex a =>
    exact (hpop.trans (keeps_paSubmit fun ⟨_, hs⟩ => hs.fifo_canonical a (hv ▸ List.mem_cons_self))).assume

end

end Sys2Proof.Machine

/-! SUPPORT. What the host port keeps (46_host_port.md R240 to R260), the raw loads that can bring in a value that is not
canonical (R251, R260), and the invariant over a whole step. -/

namespace Sys2Proof.Machine

open Sys2Proof.Claims

section
variable {p : Prop} {s t : State}

/-! ### Loads into the shader units (R248 to R252) -/

/-- The geometry unit's program memory has room for all that the vertex unit's has (R255, assumption 14). -/
theorem progInRange_gs {u : UnitId} {a : Nat} (h : progInRange u a = true) : progInRange .gs a = true := by
  cases u with
  | vs => simp_all [progInRange]
  | gs => exact h

theorem keeps_putProg {u : UnitId} {a : Nat} {w : Word} (ha : progInRange u a = true) : Keeps p s (s.putProg u a w) := by
  refine keeps_setUnit (fun h => { h with prog_rising := ?_, prog_inRange := fun q hq => ?_ }) (.inl rfl) fun _ h => { h with }
  · exact storeWrite_rising _ _ _ h.prog_rising
  · rcases mem_storeWrite _ _ _ q hq with rfl | hq
    · exact ha
    · exact h.prog_inRange q hq

theorem keeps_putSwz {u : UnitId} {a : Nat} {w : Word} (ha : a < Config.swzWords) : Keeps p s (s.putSwz u a w) := by
  refine keeps_setUnit (fun h => { h with swz_rising := ?_, swz_inRange := fun q hq => ?_ }) (.inl rfl) fun _ h => { h with }
  · exact storeWrite_rising _ _ _ h.swz_rising
  · rcases mem_storeWrite _ _ _ q hq with rfl | hq
    · exact ha
    · exact h.swz_inRange q hq

theorem keeps_putUniform {u : UnitId} {i : Nat} {x : Vec4} (hx : p → CanonicalVec x) : Keeps p s (s.putUniform u i x) :=
  keeps_setUnit (fun h => { h with }) (.inl rfl) fun hp h => { h with
    uniforms := canonicalFile_setIfInBounds h.uniforms (hx hp) i }

/-- A mirrored store keeps what the store keeps in its own unit and in the geometry unit (R255). -/
theorem keeps_mirrored {u : UnitId} {put : UnitId → State → State}
    (h : ∀ v, v = u ∨ v = .gs → ∀ x, Keeps p x (put v x)) : Keeps p s (s.mirrored u put) := by
  unfold State.mirrored
  split
  · next hu => exact (h .vs (.inl hu.1.symm) _).trans (h .gs (.inr rfl) _)
  · exact h u (.inl rfl) s

theorem keeps_loadProg (u : UnitId) (d : Word) : Keeps p s (s.loadProg u d) := by
  unfold State.loadProg
  dsimp only
  split
  · next ha =>
    refine (keeps_mirrored fun v hv x => keeps_putProg ?_).trans (keeps_hregWrite _ _ _)
    rcases hv with rfl | rfl
    · exact ha
    · exact progInRange_gs ha
  · exact keeps_raise s _

theorem keeps_loadSwz (u : UnitId) (d : Word) : Keeps p s (s.loadSwz u d) := by
  unfold State.loadSwz
  dsimp only
  split
  · next ha => exact (keeps_mirrored fun _ _ _ => keeps_putSwz ha).trans (keeps_hregWrite _ _ _)
  · exact keeps_raise s _

/-- The word `d` completes a raw load of `x` into a float uniform of unit `u` (R251). -/
def FuniRaw (s : State) (u : UnitId) (d : Word) (x : Vec4) : Prop :=
  flagAt (s.hregRead (regFuniSetup u)) 31 = false ∧ (field (s.hregRead (regFuniSetup u)) 0 8).toNat < 96 ∧
    2 ≤ (s.unit u).fuN ∧ x = unpackRaw ((s.unit u).fuBuf.setIfInBounds (s.unit u).fuN d)[0]
      ((s.unit u).fuBuf.setIfInBounds (s.unit u).fuN d)[1] ((s.unit u).fuBuf.setIfInBounds (s.unit u).fuN d)[2]

/-- A change of the float-uniform assembly buffer of a unit (R251). -/
theorem keeps_assembly {u : UnitId} {buf : Vector Word 4} {n : Nat} (hn : n < 4) :
    Keeps p s (s.setUnit u { s.unit u with fuBuf := buf, fuN := n }) :=
  keeps_setUnit (fun h => { h with assembly_bounded := hn }) (.inl rfl) fun _ h => { h with }

theorem keeps_loadFuni {u : UnitId} {d : Word} (hraw : p → ∀ x, FuniRaw s u d x → CanonicalVec x) :
    Keeps p s (s.loadFuni u d) := by
  unfold State.loadFuni
  dsimp only
  by_cases hfull : (if flagAt (s.hregRead (regFuniSetup u)) 31 then 4 else 3) ≤ (s.unit u).fuN + 1
  · rw [if_pos hfull]
    refine (keeps_assembly (u := u) (buf := (s.unit u).fuBuf.setIfInBounds (s.unit u).fuN d) (n := 0) (by decide)).trans ?_
    by_cases hindex : 96 ≤ (field (s.hregRead (regFuniSetup u)) 0 8).toNat
    · rw [if_pos hindex]
      exact keeps_raise _ _
    · rw [if_neg hindex]
      refine (keeps_mirrored fun _ _ _ => keeps_putUniform fun hp => ?_).trans (keeps_hregWrite _ _ _)
      split
      · exact canonicalVec_unpackF32 _ _ _ _
      · next hmode =>
        rw [if_neg hmode] at hfull
        exact hraw hp _ ⟨by simpa using hmode, by omega, by omega, rfl⟩
  · rw [if_neg hfull]
    refine keeps_assembly ?_
    split at hfull <;> omega

theorem keeps_mirrorUniform (u : UnitId) (id : Nat) (d : Word) : Keeps p s (s.mirrorUniform u id d) := by
  unfold State.mirrorUniform
  split
  · exact keeps_hregWrite s id d
  · exact .refl s

/-! ### Draws and immediate mode (R257 to R260) -/

theorem keeps_startDraw {indexed : Bool} (h : s.startDraw indexed = .next t) : Keeps p s t := by
  obtain ⟨u, hu, -, rfl⟩ := (startDraw_eq_next s t indexed).mp h
  refine (keeps_reconfigure hu).trans ⟨fun hs => { hs with }, fun _ hs => { hs with draw_canonical := fun d hd item hitem => ?_ }⟩
  cases hd
  obtain ⟨x, rfl⟩ := mem_takeSupply u item hitem
  exact canonicalFile_loadedFile x.attrs

theorem keeps_drawNext {d : DrawWalk} (hidle : s.gs.run = .idle) (hd : s.draw = some d) (h : s.drawNext d = .next t) :
    Keeps p s t := by
  unfold State.drawNext at h
  split at h
  · cases h
    exact ⟨fun hs => { hs with }, fun _ hs => { hs with draw_canonical := fun _ e => nomatch e }⟩
  · next item rest hitems =>
    have hrest : Keeps (p ∧ s.AllCanonical) s { s with draw := some { d with items := rest } } :=
      ⟨fun hs => { hs with }, fun _ hs => { hs with
        draw_canonical := fun e he x hx => hs.draw_canonical d hd x (by cases he; exact hitems ▸ List.mem_cons_of_mem item hx) }⟩
    dsimp only at h
    split at h
    · exact (hrest.trans (keeps_gpSubmitIndex h)).assume
    · cases h
      exact (hrest.trans (keeps_startVs hidle fun ⟨_, hs⟩ =>
        hs.draw_canonical d hd item (hitems ▸ List.mem_cons_self))).assume

theorem keeps_immFirst (s : State) (b : Bool) : Keeps p s { s with immFirst := b } :=
  ⟨fun hs => { hs with }, fun _ hs => { hs with }⟩

theorem keeps_immediateAttr {x : Vec4} (hidle : s.gs.run = .idle) (hx : p → CanonicalVec x)
    (h : s.immediateAttr x = .next t) : Keeps p s t := by
  have hbuf : p → s.AllCanonical → CanonicalFile (s.immBuf.setIfInBounds s.immN x) := fun hp hs =>
    canonicalFile_setIfInBounds hs.immediate_canonical (hx hp) _
  have hput (n : Nat) (hn : n < 16) : Keeps p s { s with immBuf := s.immBuf.setIfInBounds s.immN x, immN := n } :=
    ⟨fun hs => { hs with immediate_bounded := hn }, fun hp hs => { hs with immediate_canonical := hbuf hp hs }⟩
  unfold State.immediateAttr at h
  dsimp only at h
  split at h
  · obtain ⟨u, hu, hnext⟩ := (seqR_eq_next _ _ _).mp h
    have hready : Keeps p s u ∧ u.gs.run = s.gs.run := by
      split at hu
      · exact ⟨((hput 0 (by decide)).trans (keeps_immFirst _ _)).trans (keeps_reconfigure hu), by rw [run_reconfigure hu]⟩
      · cases hu; exact ⟨hput 0 (by decide), rfl⟩
    obtain ⟨hu, hrun⟩ := hready
    split at hnext
    · cases hnext
    · cases hnext
      refine Keeps.assume (Keeps.trans ⟨hu.legal, fun hp => hu.canonical hp.1⟩ (keeps_startVs (hrun.trans hidle) ?_))
      exact fun ⟨hp, hs⟩ => hbuf hp hs
  · next hn =>
    cases h
    exact hput _ (by have := numIn_le s .vs; omega)

/-- The word `d` completes a raw load of `x` into the immediate-mode buffer (R260). -/
def DefattrRaw (s : State) (d : Word) (x : Vec4) : Prop :=
  field (s.hregRead regDefattrIndex) 0 4 = 0xF#4 ∧ 2 ≤ s.daN ∧
    x = unpackRaw (s.daBuf.setIfInBounds s.daN d)[0] (s.daBuf.setIfInBounds s.daN d)[1] (s.daBuf.setIfInBounds s.daN d)[2]

/-- A change of the assembly buffer of the default attributes (R260). -/
theorem keeps_defattrAssembly (s : State) {buf : Vector Word 3} {n : Nat} (hn : n < 3) :
    Keeps p s { s with daBuf := buf, daN := n } :=
  ⟨fun hs => { hs with defattr_bounded := hn }, fun _ hs => { hs with }⟩

theorem keeps_defaultAttrs (s : State) (a : Vector Vec4 12) : Keeps p s { s with defaultAttrs := a } :=
  ⟨fun hs => { hs with }, fun _ hs => { hs with }⟩

theorem keeps_loadDefattr {d : Word} (hidle : s.gs.run = .idle) (hraw : p → ∀ x, DefattrRaw s d x → CanonicalVec x)
    (h : s.loadDefattr d = .next t) : Keeps p s t := by
  unfold State.loadDefattr at h
  dsimp only at h
  split at h
  · next hfull =>
    refine (keeps_defattrAssembly s (buf := s.daBuf.setIfInBounds s.daN d) (n := 0) (by decide)).trans ?_
    split at h
    · cases h
      exact (keeps_defaultAttrs _ _).trans (keeps_hregWrite _ _ _)
    · split at h
      · next hindex => exact keeps_immediateAttr hidle (fun hp => hraw hp _ ⟨hindex, by omega, rfl⟩) h
      · cases h
        exact keeps_raise _ _
  · next hfull =>
    cases h
    exact keeps_defattrAssembly s (by omega)

/-! ### Register writes (R244 to R247) -/

theorem keeps_hostCalls (s : State) (l : List (Nat × Nat)) : Keeps p s { s with hostCalls := l } :=
  ⟨fun hs => { hs with }, fun _ hs => { hs with }⟩

theorem keeps_triggerSublist {n : Fin 2} (h : s.triggerSublist n = .next t) : Keeps p s t := by
  obtain ⟨-, rfl⟩ := (triggerSublist_eq_next s t n).mp h
  exact keeps_cl s fun c b hc hb => by cases hc; cases hb

theorem keeps_resetAssembler (s : State) : Keeps p s { s with pa := s.pa.reset } :=
  ⟨fun hs => { hs with assembler_bounded := Nat.zero_le 2 }, fun _ hs => { hs with }⟩

/-- The side effect of a register write keeps both invariants, where a raw load, if it makes one, is canonical. -/
theorem keeps_sideEffect {r : HostReg} {d : Word} (hidle : s.gs.run = .idle)
    (hfuni : p → ∀ u x, r = .funiData u → FuniRaw s u d x → CanonicalVec x)
    (hdefattr : p → ∀ x, r = .defattrData → DefattrRaw s d x → CanonicalVec x)
    (h : s.sideEffect r d = .next t) : Keeps p s t := by
  cases r
  case draw => exact keeps_startDraw h
  case drawIndexed => exact keeps_startDraw h
  case defattrData => exact keeps_loadDefattr hidle (fun hp x => hdefattr hp x rfl) h
  case sublistTrigger n => exact keeps_triggerSublist h
  all_goals cases h
  case plain => exact .refl s
  case progData u => exact keeps_loadProg u d
  case swzData u => exact keeps_loadSwz u d
  case funiData u => exact keeps_loadFuni fun hp x => hfuni hp u x rfl
  case intUniform u n => exact keeps_mirrorUniform u _ d
  case boolUniform u => exact keeps_mirrorUniform u _ d
  case topology => exact keeps_resetAssembler s
  case restart => exact keeps_resetAssembler s
  case defattrIndex =>
    split
    · exact ⟨fun hs => { hs with immediate_bounded := Nat.succ_pos 15 }, fun _ hs => { hs with }⟩
    · exact .refl s
  case irq => exact ⟨fun hs => { hs with }, fun _ hs => { hs with }⟩

/-! ### Raw loads in the terms of the statement (R245, R251, R260) -/

/-- Bit `j` of the expanded mask is the mask bit of its byte lane (R245). -/
theorem getLsbD_expandMask (mask : BitVec 4) (k : Fin 4) (j : Fin 8) :
    (expandMask mask).getLsbD (8 * k.val + j.val) = mask.getLsbD k.val := by
  revert mask k j
  decide

theorem isMerged_mergeMasked (old value : Word) (mask : BitVec 4) : IsMerged old value mask (mergeMasked old value mask) := by
  intro k
  apply BitVec.eq_of_getLsbD_eq
  intro j hj
  have he := getLsbD_expandMask mask k ⟨j, hj⟩
  have hlt : 8 * k.val + j < 32 := by omega
  rw [BitVec.getLsbD_eq_getElem hlt] at he
  cases hm : mask.getLsbD k.val <;> rw [hm] at he <;> simp [mergeMasked, he, hj, hlt]

theorem toNat_field (w : Word) (lo n : Nat) : (field w lo n).toNat = w.toNat / 2 ^ lo % 2 ^ n := by
  rw [field, BitVec.extractLsb'_toNat, Nat.shiftRight_eq_div_pow]

/-- The number of two fields put side by side. -/
theorem toNat_append_field {m : Nat} (x : BitVec m) (w : Word) (lo n : Nat) :
    (x ++ field w lo n).toNat = x.toNat * 2 ^ n + w.toNat / 2 ^ lo % 2 ^ n := by
  rw [BitVec.toNat_append, ← Nat.shiftLeft_add_eq_or_of_lt (field w lo n).isLt, Nat.shiftLeft_eq, toNat_field]

theorem isUnpacked_unpackRaw (w0 w1 w2 : Word) : IsUnpacked w0 w1 w2 (unpackRaw w0 w1 w2) := by
  have h1 := w1.isLt
  have h2 := w2.isLt
  intro k
  match k with
  | 0 =>
    show (field w2 0 24).toNat = (w0.toNat * 2 ^ 64 + w1.toNat * 2 ^ 32 + w2.toNat) / 1 % 2 ^ 24
    rw [toNat_field, Nat.pow_zero]
    omega
  | 1 =>
    show (field w1 0 16 ++ field w2 24 8).toNat = (w0.toNat * 2 ^ 64 + w1.toNat * 2 ^ 32 + w2.toNat) / 2 ^ 24 % 2 ^ 24
    rw [toNat_append_field, toNat_field, Nat.pow_zero]
    omega
  | 2 =>
    show (field w0 0 8 ++ field w1 16 16).toNat = (w0.toNat * 2 ^ 64 + w1.toNat * 2 ^ 32 + w2.toNat) / 2 ^ 48 % 2 ^ 24
    rw [toNat_append_field, toNat_field, Nat.pow_zero]
    omega
  | 3 =>
    show (field w0 8 24).toNat = (w0.toNat * 2 ^ 64 + w1.toNat * 2 ^ 32 + w2.toNat) / 2 ^ 72 % 2 ^ 24
    rw [toNat_field]
    omega

theorem ite_ne_of_ne {α : Type} {c : Prop} [Decidable c] {a b x : α} (ha : a ≠ x) (hb : b ≠ x) : (if c then a else b) ≠ x := by
  by_cases hc : c
  · rw [if_pos hc]; exact ha
  · rw [if_neg hc]; exact hb

theorem unitReg_funiData {u v : UnitId} {k : Nat} (h : unitReg v k = .funiData u) : v = u ∧ 0x11 ≤ k ∧ k ≤ 0x18 := by
  unfold unitReg at h
  by_cases hk : 0x11 ≤ k ∧ k ≤ 0x18
  · rw [if_neg (by omega), if_neg (by omega), if_pos hk] at h
    exact ⟨HostReg.funiData.inj h, hk⟩
  · rw [if_neg hk] at h
    exact absurd h (ite_ne_of_ne nofun (ite_ne_of_ne nofun (ite_ne_of_ne nofun (ite_ne_of_ne nofun nofun))))

/-- The eight float-uniform data registers of a unit (R262). -/
theorem hostReg_funiData {id : Nat} {u : UnitId} (h : hostReg id = .funiData u) :
    ∃ k : Fin 8, id = regFuniData u + k.val := by
  unfold hostReg at h
  by_cases hgs : 0x280 ≤ id ∧ id < 0x2B0
  · rw [if_pos hgs] at h
    obtain ⟨rfl, hlo, hhi⟩ := unitReg_funiData h
    exact ⟨⟨id - 0x291, by omega⟩, by show id = 0x291 + (id - 0x291); omega⟩
  · rw [if_neg hgs] at h
    by_cases hvs : 0x2B0 ≤ id ∧ id < 0x2E0
    · rw [if_pos hvs] at h
      obtain ⟨rfl, hlo, hhi⟩ := unitReg_funiData h
      exact ⟨⟨id - 0x2C1, by omega⟩, by show id = 0x2C1 + (id - 0x2C1); omega⟩
    · rw [if_neg hvs] at h
      refine absurd h ?_
      repeat' apply ite_ne_of_ne
      all_goals nofun

theorem unitReg_ne_defattrData (u : UnitId) (k : Nat) : unitReg u k ≠ .defattrData := by
  unfold unitReg
  repeat' apply ite_ne_of_ne
  all_goals nofun

/-- The three data registers of the default attributes (R262). -/
theorem hostReg_defattrData {id : Nat} (h : hostReg id = .defattrData) : ∃ k : Fin 3, id = regDefattrData + k.val := by
  have hid : 0x233 ≤ id ∧ id ≤ 0x235 := by
    by_contra hout
    unfold hostReg at h
    rw [if_neg hout] at h
    refine absurd h (ite_ne_of_ne (unitReg_ne_defattrData _ _) (ite_ne_of_ne (unitReg_ne_defattrData _ _) ?_))
    repeat' apply ite_ne_of_ne
    all_goals nofun
  exact ⟨⟨id - 0x233, by omega⟩, by show id = 0x233 + (id - 0x233); omega⟩

/-- A word put into an assembly buffer: the place it goes to, and the places that stay. -/
theorem getElem_setIfInBounds_eq {n : Nat} (buf : Vector Word n) (k : Nat) (d : Word) (i : Nat) (hi : i < n) :
    (buf.setIfInBounds k d)[i] = if i = k then d else buf[i] := by
  rw [Vector.getElem_setIfInBounds]
  simp only [eq_comm]

/-- A raw load of a float uniform is one in the terms of the statement. -/
theorem loadsRaw_of_funiRaw {id : Nat} {value : Word} {mask : BitVec 4} {u : UnitId} {x : Vec4}
    (hid : hostReg id = .funiData u)
    (h : FuniRaw (s.hregWrite id (mergeMasked (s.hregRead id) value mask)) u (mergeMasked (s.hregRead id) value mask) x) :
    LoadsRaw s id value mask x := by
  obtain ⟨k, hk⟩ := hostReg_funiData hid
  have hne : regFuniSetup u ≠ id := by
    rw [hk]
    unfold regFuniSetup regFuniData
    omega
  obtain ⟨hmode, hindex, hn, rfl⟩ := h
  rw [hregRead_hregWrite_other _ _ _ _ hne] at hmode hindex
  rw [State.unit_hregWrite] at hn ⊢
  refine ⟨_, fun i => ((s.unit u).fuBuf.setIfInBounds (s.unit u).fuN (mergeMasked (s.hregRead id) value mask))[i.val],
    isMerged_mergeMasked _ _ _, isUnpacked_unpackRaw _ _ _, .inl ⟨u, k, hk, hmode, ?_, hn, fun i => ?_⟩⟩
  · rw [toNat_field] at hindex
    simpa using hindex
  · exact getElem_setIfInBounds_eq _ _ _ _ _

/-- A raw load of immediate-mode data is one in the terms of the statement. -/
theorem loadsRaw_of_defattrRaw {id : Nat} {value : Word} {mask : BitVec 4} {x : Vec4} (hbound : s.daN < 3)
    (hid : hostReg id = .defattrData)
    (h : DefattrRaw (s.hregWrite id (mergeMasked (s.hregRead id) value mask)) (mergeMasked (s.hregRead id) value mask) x) :
    LoadsRaw s id value mask x := by
  obtain ⟨k, hk⟩ := hostReg_defattrData hid
  have hne : regDefattrIndex ≠ id := by
    rw [hk]
    unfold regDefattrIndex regDefattrData
    omega
  obtain ⟨hindex, hn, rfl⟩ := h
  rw [hregRead_hregWrite_other _ _ _ _ hne] at hindex
  rw [State.daN_hregWrite] at hn
  refine ⟨_, fun i => (s.daBuf.setIfInBounds s.daN (mergeMasked (s.hregRead id) value mask))[i.val],
    isMerged_mergeMasked _ _ _, isUnpacked_unpackRaw _ _ _, .inr ⟨k, hk, ?_, by omega, fun i => ?_⟩⟩
  · have hnat := congrArg BitVec.toNat hindex
    rw [toNat_field] at hnat
    simpa using hnat
  · exact getElem_setIfInBounds_eq _ _ _ _ _

/-- A register write keeps both invariants, where the patterns that it loads raw, if it loads any, are canonical. -/
theorem keeps_writeReg {id : Nat} {value : Word} {mask : BitVec 4} (hidle : s.gs.run = .idle) (hbound : p → s.daN < 3)
    (hraw : p → ∀ x, LoadsRaw s id value mask x → CanonicalVec x) (h : s.writeReg id value mask = .next t) :
    Keeps p s t := by
  rw [writeReg_eq] at h
  split at h
  · refine (keeps_hregWrite s id _).trans (keeps_sideEffect hidle (fun hp u x hu hx => ?_) (fun hp x hr hx => ?_) h)
    · exact hraw hp x (loadsRaw_of_funiRaw hu hx)
    · exact hraw hp x (loadsRaw_of_defattrRaw (hbound hp) hr hx)
  · cases h
    exact keeps_raise s _

/-! ### Command lists (R240 to R243) -/

theorem left_headerBurst {w : Word} {b : Burst} (h : headerBurst w = some b) : 0 < b.left := by
  unfold headerBurst at h
  dsimp only at h
  split at h
  · cases h
  · cases h
    show 0 < (field w 20 8).toNat
    omega

theorem left_rest {b c : Burst} (h : b.rest = some c) : 0 < c.left := by
  rw [rest_eq] at h
  split at h
  · cases h
  · cases h
    show 0 < b.left - 1
    omega

/-- A step of a command list keeps both invariants; the register write that it makes is the one that `ListWrites`
names. -/
theorem keeps_listNext {c : CmdWalk} (hvs : s.vs.run = .idle) (hgs : s.gs.run = .idle) (hvout : s.vout = [])
    (hdraw : s.draw = none) (hc : s.cl = some c) (h : s.listNext c = .next t) :
    Keeps (s.Legal ∧ RawLoadCanonical s) s t := by
  unfold State.listNext at h
  split at h
  · next b hb =>
    obtain ⟨hcur, w, hw, x, hx, rfl⟩ := (extraWrite_eq_next s t c b).mp h
    have hcl : Keeps (s.Legal ∧ RawLoadCanonical s) s { s with cl := some { c with burst := b.rest } } :=
      keeps_cl s fun c' b' hc' hb' => by cases hc'; exact left_rest hb'
    refine (hcl.trans (keeps_writeReg hgs (fun hp => hp.1.defattr_bounded) (fun ⟨_, hr⟩ y hy => ?_) hx)).trans
      (keeps_cursorNext x)
    exact hr _ _ _ y ⟨hvs, hgs, hvout, hdraw, c, hc, hcur, .inl ⟨b, hb, hw, rfl, rfl⟩⟩ hy
  · next hb =>
    split at h
    · next hcur =>
      unfold State.firstWrite at h
      obtain ⟨w, hw, h⟩ := (withGuestWord_eq_next _ _ _ _).mp h
      obtain ⟨header, hheader, h⟩ := (withGuestWord_eq_next _ _ _ _).mp h
      have hcl : Keeps (s.Legal ∧ RawLoadCanonical s) s
          { s with cl := some { c with cur := c.cur + c.cur % 2 + 2, burst := headerBurst header } } :=
        keeps_cl s fun c' b' hc' hb' => by cases hc'; exact left_headerBurst hb'
      refine hcl.trans (keeps_writeReg hgs (fun hp => hp.1.defattr_bounded) (fun ⟨_, hr⟩ y hy => ?_) h)
      refine hr _ _ _ y ⟨hvs, hgs, hvout, hdraw, c, hc, hcur, .inr ⟨header, hb, hw, hheader, ?_, rfl⟩⟩ hy
      rw [toNat_field, Nat.pow_zero, Nat.div_one]
      rfl
    · cases h
      exact keeps_cl s fun _ _ e => nomatch e

/-! ### The step -/

/-- What a step is (R170, R207, R225, R236, R240): an instruction of the running unit; else a pending output stage; else,
with both units idle, one act of the rest of the block. -/
inductive Act (s t : State) : Prop where
  | instruction (hrun : s.gs.run = .running ∨ (s.gs.run = .idle ∧ s.vs.run = .running)) (h : runUnit s = .next t)
  | gsOutput (hrun : s.gs.run = .halted) (h : s.gsOutputStage = .next t)
  | vsOutput (hgs : s.gs.run = .idle) (hrun : s.vs.run = .halted) (h : s.vsOutputStage = .next t)
  | consume (hgs : s.gs.run = .idle) (hvs : s.vs.run = .idle) (e : VoutEntry) (rest : List VoutEntry)
      (hvout : s.vout = e :: rest) (h : t = { s with vout := rest }.paConsume e)
  | draw (hgs : s.gs.run = .idle) (hvs : s.vs.run = .idle) (d : DrawWalk) (hdraw : s.draw = some d)
      (h : s.drawNext d = .next t)
  | list (hgs : s.gs.run = .idle) (hvs : s.vs.run = .idle) (hvout : s.vout = []) (hdraw : s.draw = none) (c : CmdWalk)
      (hc : s.cl = some c) (h : s.listNext c = .next t)
  | call (address size : Nat) (rest : List (Nat × Nat)) (h : State.startList { s with hostCalls := rest } address size = .next t)
  | stay (h : t = s)

theorem blockStep_act (hgs : s.gs.run ≠ .running) (hvs : s.gs.run = .halted ∨ s.vs.run ≠ .running)
    (h : s.blockStep = .next t) : Act s t := by
  unfold State.blockStep at h
  split at h
  · next hhalt => exact .gsOutput hhalt h
  · next hg =>
    have hgs : s.gs.run = .idle := by cases e : s.gs.run <;> simp_all
    split at h
    · next hhalt => exact .vsOutput hgs hhalt h
    · next hv =>
      have hvs : s.vs.run = .idle := by cases e : s.vs.run <;> simp_all
      split at h
      · next e rest hvout => exact .consume hgs hvs e rest hvout (Host.Outcome.next.inj h).symm
      · next d _ hdraw => exact .draw hgs hvs d hdraw h
      · next c hvout hdraw hc => exact .list hgs hvs hvout hdraw c hc h
      · next address size rest _ _ _ _ => exact .call address size rest h
      · exact .stay (Host.Outcome.next.inj h).symm

theorem step_act (h : step s = .next t) : Act s t := by
  by_cases hactive : s.gs.run = .running ∨ (s.gs.run = .idle ∧ s.vs.run = .running)
  · exact .instruction hactive (step_active s hactive ▸ h)
  · have hgs : s.gs.run ≠ .running := fun e => hactive (.inl e)
    have hvs : s.gs.run = .halted ∨ s.vs.run ≠ .running := by cases e : s.gs.run <;> simp_all
    exact blockStep_act hgs hvs (step_inactive s hgs hvs ▸ h)

/-- A step keeps both invariants, but for a raw load of a pattern that is not canonical. -/
theorem keeps_step (h : step s = .next t) : Keeps (s.Legal ∧ RawLoadCanonical s) s t := by
  cases step_act h with
  | instruction hrun h => exact keeps_runUnit hrun h
  | gsOutput _ h => exact keeps_gsOutputStage h
  | vsOutput _ _ h => exact keeps_vsOutputStage h
  | consume _ _ e rest hvout h => exact h ▸ keeps_consume hvout
  | draw hgs _ d hdraw h => exact keeps_drawNext hgs hdraw h
  | list hgs hvs hvout hdraw c hc h => exact keeps_listNext hvs hgs hvout hdraw hc h
  | call address size rest h =>
    obtain ⟨-, rfl⟩ := (startList_eq_next _ t address size).mp h
    exact (keeps_hostCalls s rest).trans (keeps_cl _ fun c b hc hb => by cases hc; cases hb)
  | stay h => subst h; exact .refl _

end

/-- Settles O7: each act of a step keeps the invariant, and canonical values where no pattern that is not canonical is
loaded raw. -/
theorem stepKeepsLegal : Obligations.StepKeepsLegal := by
  unfold Obligations.StepKeepsLegal
  intro s t hs h
  have hk := keeps_step h
  exact ⟨hk.legal hs, fun hc hr => hk.canonical ⟨hs, hr⟩ hc⟩

end Sys2Proof.Machine

/-! SUPPORT. Guest memory word by word (20_memory.md R42): a word against its four bytes, and the bytes that a stored
word leaves. -/

namespace Sys2Proof.Machine

/-! ### Words and bytes -/

theorem toNat_append_eq_add {m n : Nat} (x : BitVec m) (y : BitVec n) : (x ++ y).toNat = x.toNat * 2 ^ n + y.toNat := by
  rw [BitVec.toNat_append, ← Nat.shiftLeft_add_eq_or_of_lt y.isLt, Nat.shiftLeft_eq]

/-- The value of a word by its bytes, the first least significant (R42). -/
theorem toNat_wordOfBytes (b0 b1 b2 b3 : Byte) :
    (wordOfBytes b0 b1 b2 b3).toNat = b0.toNat + 2 ^ 8 * b1.toNat + 2 ^ 16 * b2.toNat + 2 ^ 24 * b3.toNat := by
  unfold wordOfBytes
  rw [toNat_append_eq_add, toNat_append_eq_add, toNat_append_eq_add]
  omega

@[simp] theorem wordOfBytes_fields (w : Word) :
    wordOfBytes (field w 0 8) (field w 8 8) (field w 16 8) (field w 24 8) = w := by
  apply BitVec.eq_of_toNat_eq
  have hw := w.isLt
  rw [toNat_wordOfBytes, toNat_field, toNat_field, toNat_field, toNat_field]
  omega

/-! ### Reading and storing a word -/

/-- Where four bytes are mapped, they are the word that is read there. -/
theorem memReadWord_of_bytes {m : Memory} {a : Nat} {b0 b1 b2 b3 : Byte} (h0 : memReadByte m a = some b0)
    (h1 : memReadByte m (a + 1) = some b1) (h2 : memReadByte m (a + 2) = some b2) (h3 : memReadByte m (a + 3) = some b3) :
    memReadWord m a = some (wordOfBytes b0 b1 b2 b3) := by
  unfold memReadWord
  rw [h0, h1, h2, h3]

/-- A stored word leaves its bytes, the least significant one first. -/
theorem memReadByte_memWriteWord_inside (m : Memory) (a : Nat) (w : Word) (j : Fin 4) :
    memReadByte (memWriteWord m a w) (a + j.val) = some (field w (8 * j.val) 8) := by
  unfold memWriteWord
  fin_cases j <;> simp [memReadByte_memWriteByte_other]

/-- A stored word leaves every byte outside it. -/
theorem memReadByte_memWriteWord_outside (m : Memory) (a k : Nat) (w : Word) (h : k < a ∨ a + 4 ≤ k) :
    memReadByte (memWriteWord m a w) k = memReadByte m k := by
  unfold memWriteWord
  rw [memReadByte_memWriteByte_other _ (a + 3) k _ (by omega), memReadByte_memWriteByte_other _ (a + 2) k _ (by omega),
    memReadByte_memWriteByte_other _ (a + 1) k _ (by omega), memReadByte_memWriteByte_other _ a k _ (by omega)]

@[simp] theorem memReadWord_memWriteWord_same (m : Memory) (a : Nat) (w : Word) :
    memReadWord (memWriteWord m a w) a = some w := by
  have hbyte := memReadByte_memWriteWord_inside m a w
  exact (memReadWord_of_bytes (hbyte 0) (hbyte 1) (hbyte 2) (hbyte 3)).trans (congrArg some (wordOfBytes_fields w))

/-- Settles O60, by the bytes of a word and the bytes that a stored word leaves. -/
theorem guestWordReadBack : Obligations.GuestWordReadBack := by
  unfold Obligations.GuestWordReadBack
  refine ⟨fun m a b0 b1 b2 b3 h0 h1 h2 h3 => ?_, fun m a w => ?_⟩
  · exact ⟨wordOfBytes b0 b1 b2 b3, memReadWord_of_bytes h0 h1 h2 h3, toNat_wordOfBytes b0 b1 b2 b3⟩
  · exact ⟨memReadWord_memWriteWord_same m a w, fun k hk => memReadByte_memWriteWord_outside m a k w hk,
      memWriteWord_wf m a w⟩

end Sys2Proof.Machine

/-! SUPPORT. What no operation of the block takes back: guest memory stays as it is (20_memory.md R47), and the
triangles, the interrupts and the anomaly record only grow (R235, R261, R270). -/

namespace Sys2Proof.Machine

/-- Between `s` and `t` guest memory is the same, and the output streams and the anomaly record have grown at their
ends, if at all. -/
structure StreamsGrow (s t : State) : Prop where
  guest : t.guest = s.guest
  tri : s.tri <+: t.tri
  irq : s.irq <+: t.irq
  log : s.log <+: t.log

section
variable {s t u : State}

theorem StreamsGrow.of_eq (hguest : t.guest = s.guest) (htri : t.tri = s.tri) (hirq : t.irq = s.irq)
    (hlog : t.log = s.log) : StreamsGrow s t :=
  ⟨hguest, htri ▸ List.prefix_rfl, hirq ▸ List.prefix_rfl, hlog ▸ List.prefix_rfl⟩

theorem StreamsGrow.refl (s : State) : StreamsGrow s s := .of_eq rfl rfl rfl rfl

theorem StreamsGrow.trans (h : StreamsGrow s t) (g : StreamsGrow t u) : StreamsGrow s u :=
  ⟨g.guest.trans h.guest, h.tri.trans g.tri, h.irq.trans g.irq, h.log.trans g.log⟩

/-! ### The operations over the state -/

theorem streamsGrow_setUnit (s : State) (v : UnitId) (x : ShaderUnit) : StreamsGrow s (s.setUnit v x) :=
  .of_eq (State.guest_setUnit s v x) (State.tri_setUnit s v x) (State.irq_setUnit s v x) (State.log_setUnit s v x)

theorem streamsGrow_raise (s : State) (a : Anomaly) : StreamsGrow s (s.raise a) :=
  ⟨rfl, List.prefix_rfl, List.prefix_rfl, List.prefix_append s.log [a]⟩

theorem streamsGrow_hregWrite (s : State) (id : Nat) (w : Word) : StreamsGrow s (s.hregWrite id w) :=
  .of_eq rfl rfl rfl rfl

theorem streamsGrow_startUnit (s : State) (v : UnitId) : StreamsGrow s (s.startUnit v) :=
  .of_eq (State.guest_startUnit s v) (State.tri_startUnit s v) (State.irq_startUnit s v) (State.log_startUnit s v)

theorem streamsGrow_startVs (s : State) (a : Vector Vec4 16) : StreamsGrow s (s.startVs a) :=
  (streamsGrow_setUnit s .vs _).trans (streamsGrow_startUnit _ .vs)

/-! ### Instructions (R170) -/

/-- An instruction that completes can record anomalies; its other effects are on the executing unit, the emitter and the
FIFO. -/
theorem streamsGrow_exec {i : Instr} (h : exec i s = .next t) : StreamsGrow s t := by
  cases exec_effect h with
  | ofUnit x l _ =>
    have hunit : StreamsGrow s (s.setCur x) := streamsGrow_setUnit s s.cur x
    exact ⟨hunit.guest, hunit.tri, hunit.irq, List.prefix_append s.log l⟩
  | emitter em es _ _ => exact .of_eq rfl rfl rfl rfl

theorem streamsGrow_runUnit (h : runUnit s = .next t) : StreamsGrow s t := by
  obtain ⟨w, -, hexec⟩ := (runUnit_eq_next s t).mp h
  have hchecked : StreamsGrow s s.frameChecked := streamsGrow_setUnit s s.cur _
  exact hchecked.trans (streamsGrow_exec hexec)

/-! ### The geometry pipeline (R208 to R224) -/

theorem streamsGrow_reconfigure (h : s.reconfigure = .next t) : StreamsGrow s t := by
  obtain ⟨-, b, -, rfl⟩ := (reconfigure_eq_next s t).mp h
  exact .of_eq rfl rfl rfl rfl

theorem streamsGrow_gpSubmitIndex {n : BitVec 16} (h : s.gpSubmitIndex n = .next t) : StreamsGrow s t := by
  obtain ⟨-, vsOut, -, rfl⟩ := (gpSubmitIndex_eq_next s t n).mp h
  exact .of_eq rfl rfl rfl rfl

theorem streamsGrow_gpSubmitVertex {a : Vertex} (h : s.gpSubmitVertex a = .next t) : StreamsGrow s t := by
  cases gpSubmitVertex_cases h with
  | forwarded => exact .of_eq rfl rfl rfl rfl
  | buffered b c v _ _ start =>
    have hfilled : StreamsGrow s (s.filled b c v) := .of_eq rfl rfl rfl rfl
    cases start
    · exact hfilled
    · exact hfilled.trans (streamsGrow_startUnit _ .gs)

theorem streamsGrow_vsOutputStage (h : s.vsOutputStage = .next t) : StreamsGrow s t :=
  (streamsGrow_setUnit s .vs _).trans (streamsGrow_gpSubmitVertex h)

theorem streamsGrow_gsOutputStage (h : s.gsOutputStage = .next t) : StreamsGrow s t := by
  cases h
  exact .of_eq rfl rfl rfl rfl

/-! ### The primitive assembler (R228 to R235) -/

/-- A vertex adds the triangles it completes behind the earlier ones, or is recorded as an anomaly (R233, R235). -/
theorem streamsGrow_paSubmit (s : State) (value : Nat) (a : Vertex) : StreamsGrow s (s.paSubmit value a) := by
  unfold State.paSubmit
  split
  · exact ⟨rfl, List.prefix_append s.tri _, List.prefix_rfl, List.prefix_rfl⟩
  · exact streamsGrow_raise s _

theorem streamsGrow_paConsume (s : State) (e : VoutEntry) : StreamsGrow s (s.paConsume e) := by
  cases e with
  | windingMarker => exact .of_eq rfl rfl rfl rfl
  | vertex a => exact streamsGrow_paSubmit s s.topology a

/-! ### Loads into the shader units (R248 to R255) -/

/-- A mirrored store is the store into the unit, and perhaps the same store into the geometry unit (R255). -/
theorem streamsGrow_mirrored {v : UnitId} {put : UnitId → State → State} (h : ∀ w x, StreamsGrow x (put w x)) :
    StreamsGrow s (s.mirrored v put) := by
  unfold State.mirrored
  split
  · exact (h .vs s).trans (h .gs _)
  · exact h v s

theorem streamsGrow_loadProg (s : State) (v : UnitId) (d : Word) : StreamsGrow s (s.loadProg v d) := by
  unfold State.loadProg
  dsimp only
  split
  · exact (streamsGrow_mirrored fun w x => streamsGrow_setUnit x w _).trans (streamsGrow_hregWrite _ _ _)
  · exact streamsGrow_raise s _

theorem streamsGrow_loadSwz (s : State) (v : UnitId) (d : Word) : StreamsGrow s (s.loadSwz v d) := by
  unfold State.loadSwz
  dsimp only
  split
  · exact (streamsGrow_mirrored fun w x => streamsGrow_setUnit x w _).trans (streamsGrow_hregWrite _ _ _)
  · exact streamsGrow_raise s _

theorem streamsGrow_loadFuni (s : State) (v : UnitId) (d : Word) : StreamsGrow s (s.loadFuni v d) := by
  unfold State.loadFuni
  dsimp only
  by_cases hfull : (if flagAt (s.hregRead (regFuniSetup v)) 31 then 4 else 3) ≤ (s.unit v).fuN + 1
  · rw [if_pos hfull]
    refine (streamsGrow_setUnit s v
      { s.unit v with fuBuf := (s.unit v).fuBuf.setIfInBounds (s.unit v).fuN d, fuN := 0 }).trans ?_
    split
    · exact streamsGrow_raise _ _
    · exact (streamsGrow_mirrored fun w x => streamsGrow_setUnit x w _).trans (streamsGrow_hregWrite _ _ _)
  · rw [if_neg hfull]
    exact streamsGrow_setUnit s v _

theorem streamsGrow_mirrorUniform (s : State) (v : UnitId) (id : Nat) (d : Word) :
    StreamsGrow s (s.mirrorUniform v id d) := by
  unfold State.mirrorUniform
  split
  · exact streamsGrow_hregWrite s id d
  · exact .refl s

/-! ### Draws and immediate mode (R257 to R260) -/

theorem streamsGrow_startDraw {indexed : Bool} (h : s.startDraw indexed = .next t) : StreamsGrow s t := by
  obtain ⟨u, hu, -, rfl⟩ := (startDraw_eq_next s t indexed).mp h
  exact (streamsGrow_reconfigure hu).trans (.of_eq rfl rfl rfl rfl)

theorem streamsGrow_drawNext {d : DrawWalk} (h : s.drawNext d = .next t) : StreamsGrow s t := by
  unfold State.drawNext at h
  split at h
  · cases h
    exact .of_eq rfl rfl rfl rfl
  · next item rest _ =>
    have hrest : StreamsGrow s { s with draw := some { d with items := rest } } := .of_eq rfl rfl rfl rfl
    dsimp only at h
    split at h
    · exact hrest.trans (streamsGrow_gpSubmitIndex h)
    · cases h
      exact hrest.trans (streamsGrow_startVs _ _)

theorem streamsGrow_immediateAttr {x : Vec4} (h : s.immediateAttr x = .next t) : StreamsGrow s t := by
  unfold State.immediateAttr at h
  dsimp only at h
  split at h
  · obtain ⟨u, hu, hnext⟩ := (seqR_eq_next _ _ _).mp h
    have hready : StreamsGrow s u := by
      split at hu
      · refine StreamsGrow.trans ?_ (streamsGrow_reconfigure hu)
        exact .of_eq rfl rfl rfl rfl
      · cases hu
        exact .of_eq rfl rfl rfl rfl
    split at hnext
    · cases hnext
    · cases hnext
      exact hready.trans (streamsGrow_startVs u _)
  · cases h
    exact .of_eq rfl rfl rfl rfl

theorem streamsGrow_loadDefattr {d : Word} (h : s.loadDefattr d = .next t) : StreamsGrow s t := by
  unfold State.loadDefattr at h
  dsimp only at h
  split at h
  · refine StreamsGrow.trans (t := { s with daBuf := s.daBuf.setIfInBounds s.daN d, daN := 0 }) (.of_eq rfl rfl rfl rfl) ?_
    split at h
    · cases h
      exact .of_eq rfl rfl rfl rfl
    · split at h
      · exact streamsGrow_immediateAttr h
      · cases h
        exact streamsGrow_raise _ _
  · cases h
    exact .of_eq rfl rfl rfl rfl

/-! ### Register writes and command lists (R240 to R247) -/

theorem streamsGrow_triggerSublist {n : Fin 2} (h : s.triggerSublist n = .next t) : StreamsGrow s t := by
  obtain ⟨-, rfl⟩ := (triggerSublist_eq_next s t n).mp h
  exact .of_eq rfl rfl rfl rfl

/-- Of the side effects, `REG_IRQ` alone signals an interrupt, behind the earlier ones (R261). -/
theorem streamsGrow_sideEffect {r : HostReg} {d : Word} (h : s.sideEffect r d = .next t) : StreamsGrow s t := by
  cases r
  case draw => exact streamsGrow_startDraw h
  case drawIndexed => exact streamsGrow_startDraw h
  case defattrData => exact streamsGrow_loadDefattr h
  case sublistTrigger n => exact streamsGrow_triggerSublist h
  all_goals cases h
  case plain => exact .refl s
  case progData v => exact streamsGrow_loadProg s v d
  case swzData v => exact streamsGrow_loadSwz s v d
  case funiData v => exact streamsGrow_loadFuni s v d
  case intUniform v n => exact streamsGrow_mirrorUniform s v _ d
  case boolUniform v => exact streamsGrow_mirrorUniform s v _ d
  case topology => exact .of_eq rfl rfl rfl rfl
  case restart => exact .of_eq rfl rfl rfl rfl
  case defattrIndex =>
    split
    · exact .of_eq rfl rfl rfl rfl
    · exact .refl s
  case irq => exact ⟨rfl, List.prefix_rfl, List.prefix_append s.irq _, List.prefix_rfl⟩

theorem streamsGrow_writeReg {id : Nat} {value : Word} {mask : BitVec 4} (h : s.writeReg id value mask = .next t) :
    StreamsGrow s t := by
  rw [writeReg_eq] at h
  split at h
  · exact (streamsGrow_hregWrite s id _).trans (streamsGrow_sideEffect h)
  · cases h
    exact streamsGrow_raise s _

theorem streamsGrow_cl (s : State) (cl : Option CmdWalk) : StreamsGrow s { s with cl := cl } := .of_eq rfl rfl rfl rfl

theorem streamsGrow_firstWrite {c : CmdWalk} {cur : Nat} (h : s.firstWrite c cur = .next t) : StreamsGrow s t := by
  unfold State.firstWrite at h
  obtain ⟨w, -, h⟩ := (withGuestWord_eq_next _ _ _ _).mp h
  obtain ⟨header, -, h⟩ := (withGuestWord_eq_next _ _ _ _).mp h
  exact (streamsGrow_cl s _).trans (streamsGrow_writeReg h)

theorem streamsGrow_extraWrite {c : CmdWalk} {b : Burst} (h : s.extraWrite c b = .next t) : StreamsGrow s t := by
  obtain ⟨-, w, -, x, hx, rfl⟩ := (extraWrite_eq_next s t c b).mp h
  exact ((streamsGrow_cl s _).trans (streamsGrow_writeReg hx)).trans (streamsGrow_cl x _)

theorem streamsGrow_listNext {c : CmdWalk} (h : s.listNext c = .next t) : StreamsGrow s t := by
  unfold State.listNext at h
  split at h
  · exact streamsGrow_extraWrite h
  · split at h
    · exact streamsGrow_firstWrite h
    · cases h
      exact streamsGrow_cl s none

/-! ### The step -/

theorem streamsGrow_step (h : step s = .next t) : StreamsGrow s t := by
  cases step_act h with
  | instruction _ h => exact streamsGrow_runUnit h
  | gsOutput _ h => exact streamsGrow_gsOutputStage h
  | vsOutput _ _ h => exact streamsGrow_vsOutputStage h
  | consume _ _ e rest _ h =>
    have hpop : StreamsGrow s { s with vout := rest } := .of_eq rfl rfl rfl rfl
    exact h ▸ hpop.trans (streamsGrow_paConsume _ e)
  | draw _ _ d _ h => exact streamsGrow_drawNext h
  | list _ _ _ _ c _ h => exact streamsGrow_listNext h
  | call address size rest h =>
    obtain ⟨-, rfl⟩ := (startList_eq_next _ t address size).mp h
    exact .of_eq rfl rfl rfl rfl
  | stay h => exact h ▸ .refl s

end

/-- Settles O9: each act of a step keeps guest memory and only adds to the streams. -/
theorem stepKeepsGuestAndStreams : Obligations.StepKeepsGuestAndStreams := by
  unfold Obligations.StepKeepsGuestAndStreams
  intro s t h
  obtain ⟨hguest, htri, hirq, hlog⟩ := streamsGrow_step h
  exact ⟨hguest, fun a => congrArg (memReadByte · a) hguest, htri, hirq, hlog⟩

end Sys2Proof.Machine

/-! SUPPORT. Result rounding (R96) over the reals: what `round24`, `narrowF` and `res` of Machine/Alu.lean are. -/

namespace Sys2Proof.Machine

open Sys2Proof.Claims

/-! ### Powers of two -/

/-- The two naturals that the model scales a ratio by are the power of two with an integer exponent. -/
theorem two_zpow_mul_two_pow (l : ℤ) : (2 : ℝ) ^ l * 2 ^ (-l).toNat = 2 ^ l.toNat := by
  rw [← zpow_natCast, ← zpow_natCast, ← zpow_add₀ two_ne_zero]
  congr 1
  omega

/-- A ratio below a power of two, in the naturals. -/
theorem ratio_lt_two_zpow {n d : ℕ} (hd : 0 < d) (l : ℤ) :
    (n : ℝ) / d < 2 ^ l ↔ n * 2 ^ (-l).toNat < d * 2 ^ l.toNat := by
  have hd' : (0 : ℝ) < d := by exact_mod_cast hd
  have hp : (0 : ℝ) < 2 ^ (-l).toNat := by positivity
  calc (n : ℝ) / d < 2 ^ l ↔ (n : ℝ) * 2 ^ (-l).toNat < 2 ^ l * d * 2 ^ (-l).toNat := by
        rw [div_lt_iff₀ hd', mul_lt_mul_iff_left₀ hp]
    _ ↔ (n : ℝ) * 2 ^ (-l).toNat < d * 2 ^ l.toNat := by
        rw [← two_zpow_mul_two_pow l]; ring_nf
    _ ↔ n * 2 ^ (-l).toNat < d * 2 ^ l.toNat := by exact_mod_cast Iff.rfl

/-- The binary exponent of a positive natural number. -/
theorem log2_bounds {n : ℕ} (hn : 0 < n) : (2 : ℝ) ^ n.log2 ≤ n ∧ (n : ℝ) < 2 ^ n.log2 * 2 := by
  have h1 : 2 ^ n.log2 ≤ n := Nat.log2_self_le (by omega)
  have h2 : n < 2 ^ (n.log2 + 1) := Nat.lt_log2_self
  rw [pow_succ] at h2
  exact ⟨by exact_mod_cast h1, by exact_mod_cast h2⟩

/-- `floorLog2Ratio` is the binary exponent of the ratio. -/
theorem floorLog2Ratio_bounds {n d : ℕ} (hn : 0 < n) (hd : 0 < d) :
    (2 : ℝ) ^ floorLog2Ratio n d ≤ n / d ∧ (n : ℝ) / d < 2 ^ (floorLog2Ratio n d + 1) := by
  obtain ⟨hn1, hn2⟩ := log2_bounds hn
  obtain ⟨hd1, hd2⟩ := log2_bounds hd
  have hd' : (0 : ℝ) < d := by exact_mod_cast hd
  have hl : (2 : ℝ) ^ ((n.log2 : ℤ) - d.log2) = 2 ^ n.log2 / 2 ^ d.log2 := by
    rw [zpow_sub₀ two_ne_zero, zpow_natCast, zpow_natCast]
  have hpd : (0 : ℝ) < 2 ^ d.log2 := by positivity
  unfold floorLog2Ratio
  dsimp only
  split
  · next h =>
    rw [sub_add_cancel]
    refine ⟨?_, (ratio_lt_two_zpow hd _).mpr h⟩
    rw [zpow_sub_one₀ two_ne_zero, hl, le_div_iff₀ hd']
    calc (2 : ℝ) ^ n.log2 / 2 ^ d.log2 * 2⁻¹ * d ≤ 2 ^ n.log2 / 2 ^ d.log2 * 2⁻¹ * (2 ^ d.log2 * 2) := by gcongr
      _ = 2 ^ n.log2 := by field_simp
      _ ≤ n := hn1
  · next h =>
    refine ⟨not_lt.mp (mt (ratio_lt_two_zpow hd _).mp h), ?_⟩
    rw [zpow_add_one₀ two_ne_zero, hl, div_lt_iff₀ hd']
    calc (n : ℝ) < 2 ^ n.log2 * 2 := hn2
      _ = 2 ^ n.log2 / 2 ^ d.log2 * 2 * 2 ^ d.log2 := by field_simp
      _ ≤ 2 ^ n.log2 / 2 ^ d.log2 * 2 * d := by gcongr

/-! ### The nearest real of 24 significant bits -/

/-- `k` is the nearest integer to `x`, the even one of two. -/
structure IsNearestEven (x : ℝ) (k : ℕ) : Prop where
  near : |x - k| ≤ 1 / 2
  even : |x - k| = 1 / 2 → Even k

/-- No integer is nearer than the nearest, and another is equally near only on a tie. -/
theorem IsNearestEven.le_int {x : ℝ} {k : ℕ} (h : IsNearestEven x k) (i : ℤ) :
    |x - k| ≤ |x - i| ∧ (i ≠ k → |x - i| = |x - k| → Even k) := by
  by_cases hik : i = k
  · subst hik
    exact ⟨le_rfl, fun g => absurd rfl g⟩
  have hone : (1 : ℝ) ≤ |(i : ℝ) - k| := by
    have h1 : 1 ≤ |i - (k : ℤ)| := Int.one_le_abs (sub_ne_zero.mpr hik)
    exact_mod_cast h1
  have htri : |(i : ℝ) - k| ≤ |x - i| + |x - k| := by
    rw [abs_sub_comm x i]
    exact abs_sub_le _ _ _
  have := h.near
  exact ⟨by linarith, fun _ g => h.even (by linarith)⟩

/-- The significand of a rounding in the binade `[2^23, 2^24)` is in it or its upper end. -/
theorem IsNearestEven.bounds {x : ℝ} {k : ℕ} (h : IsNearestEven x k) (hlo : 2 ^ 23 ≤ x) (hhi : x < 2 ^ 24) :
    2 ^ 23 ≤ k ∧ k ≤ 2 ^ 24 := by
  obtain ⟨h1, h2⟩ := abs_le.mp h.near
  have hk1 : ((2 ^ 23 : ℕ) : ℝ) < k + 1 := by push_cast; linarith
  have hk2 : (k : ℝ) < (2 ^ 24 : ℕ) + 1 := by push_cast; linarith
  have hk1' : 2 ^ 23 < k + 1 := by exact_mod_cast hk1
  have hk2' : k < 2 ^ 24 + 1 := by exact_mod_cast hk2
  exact ⟨by omega, by omega⟩

/-- A significand from `2^23` to `2^24` inclusive, in the range that `Representable24` asks for; an even one gives
an even one. -/
theorem exists_significand {k : ℕ} (q : ℤ) (hlo : 2 ^ 23 ≤ k) (hhi : k ≤ 2 ^ 24) :
    ∃ (k' : ℕ) (q' : ℤ), (Even k → Even k') ∧ 2 ^ 23 ≤ k' ∧ k' < 2 ^ 24 ∧ (k : ℝ) * 2 ^ q = (k' : ℝ) * 2 ^ q' := by
  rcases hhi.lt_or_eq with h | rfl
  · exact ⟨k, q, id, hlo, h, rfl⟩
  · refine ⟨2 ^ 23, q + 1, fun _ => ⟨2 ^ 22, by norm_num⟩, le_rfl, by norm_num, ?_⟩
    rw [zpow_add_one₀ two_ne_zero]
    push_cast
    ring

/-- A representable real is an integer in the unit of the binade of `x`, or lies below that binade. -/
theorem representable24_scaled {g : ℝ} (hg : Representable24 g) (q : ℤ) :
    (∃ i : ℤ, g = (i : ℝ) * 2 ^ q) ∨ g < 2 ^ 23 * 2 ^ q := by
  obtain ⟨j, p, -, hj, rfl⟩ := hg
  by_cases hpq : q ≤ p
  · refine .inl ⟨(j : ℤ) * 2 ^ (p - q).toNat, ?_⟩
    push_cast
    rw [mul_assoc, ← zpow_natCast, ← zpow_add₀ two_ne_zero]
    congr 2
    omega
  · refine .inr ?_
    have hj' : (j : ℝ) < 2 ^ 24 := by exact_mod_cast hj
    have hp : (2 : ℝ) ^ p ≤ 2 ^ (q - 1) := zpow_le_zpow_right₀ one_le_two (by omega)
    calc (j : ℝ) * 2 ^ p < 2 ^ 24 * 2 ^ p := by gcongr
      _ ≤ 2 ^ 24 * 2 ^ (q - 1) := by gcongr
      _ = 2 ^ 23 * 2 ^ q := by rw [zpow_sub_one₀ two_ne_zero]; ring

/-- Rounding to the nearest even integer in the unit of the binade is `Round24` (R96). -/
theorem isRound24_of_nearestEven {x : ℝ} {k : ℕ} (q : ℤ) (hlo : 2 ^ 23 ≤ x) (hhi : x < 2 ^ 24)
    (hk : IsNearestEven x k) : IsRound24 (x * 2 ^ q) ((k : ℝ) * 2 ^ q) := by
  have hpos : (0 : ℝ) < 2 ^ q := by positivity
  have hdist (y : ℝ) : |x * 2 ^ q - y * 2 ^ q| = |x - y| * 2 ^ q := by
    rw [← sub_mul, abs_mul, abs_of_pos hpos]
  obtain ⟨hk1, hk2⟩ := hk.bounds hlo hhi
  obtain ⟨k', q', heven, hk', hk'', heq⟩ := exists_significand q hk1 hk2
  have hbelow {g : ℝ} (hg : g < 2 ^ 23 * 2 ^ q) : |x - k| * 2 ^ q < |x * 2 ^ q - g| := by
    have h1 : |x - k| ≤ |x - 2 ^ 23| := by exact_mod_cast (hk.le_int ((2 ^ 23 : ℕ) : ℤ)).1
    rw [abs_of_nonneg (sub_nonneg.mpr hlo)] at h1
    calc |x - k| * 2 ^ q ≤ (x - 2 ^ 23) * 2 ^ q := by gcongr
      _ < x * 2 ^ q - g := by linarith
      _ ≤ |x * 2 ^ q - g| := le_abs_self _
  refine ⟨⟨k', q', hk', hk'', heq⟩, fun g hg => ?_, ?_⟩
  · rw [hdist]
    rcases representable24_scaled hg q with ⟨i, rfl⟩ | hlt
    · rw [hdist]
      exact mul_le_mul_of_nonneg_right (hk.le_int i).1 hpos.le
    · exact (hbelow hlt).le
  · rintro ⟨g, hg, hne, htie⟩
    rw [hdist] at htie
    rcases representable24_scaled hg q with ⟨i, rfl⟩ | hlt
    · rw [hdist] at htie
      have hik : i ≠ k := by rintro rfl; exact hne (by push_cast; rfl)
      exact ⟨k', q', heven ((hk.le_int i).2 hik (mul_right_cancel₀ hpos.ne' htie)), hk', hk'', heq⟩
    · exact absurd htie (hbelow hlt).ne'

/-- The significand that `round24` takes from quotient and remainder is the nearest even integer to the ratio. -/
theorem isNearestEven_div (n d : ℕ) (hd : 0 < d) :
    IsNearestEven ((n : ℝ) / d)
      (if 2 * (n % d) > d ∨ (2 * (n % d) = d ∧ n / d % 2 = 1) then n / d + 1 else n / d) := by
  have hd' : (0 : ℝ) < d := by exact_mod_cast hd
  have hx : (n : ℝ) / d = (n / d : ℕ) + ((n % d : ℕ) : ℝ) / d := by
    field_simp
    exact_mod_cast (Nat.div_add_mod n d).symm
  have hr0 : (0 : ℝ) ≤ ((n % d : ℕ) : ℝ) / d := by positivity
  have hr1 : ((n % d : ℕ) : ℝ) / d < 1 := by
    rw [div_lt_one hd']
    exact_mod_cast Nat.mod_lt n hd
  have hhalf : ((n % d : ℕ) : ℝ) / d = 1 / 2 ↔ 2 * (n % d) = d := by
    rw [div_eq_div_iff hd'.ne' two_ne_zero, one_mul, mul_comm]
    exact_mod_cast Iff.rfl
  have hle : ((n % d : ℕ) : ℝ) / d ≤ 1 / 2 ↔ 2 * (n % d) ≤ d := by
    rw [div_le_div_iff₀ hd' two_pos, one_mul, mul_comm]
    exact_mod_cast Iff.rfl
  generalize ((n % d : ℕ) : ℝ) / d = f at hx hr0 hr1 hhalf hle
  split
  · next h =>
    have hge : 1 / 2 ≤ f := by
      rcases h with h | ⟨h, -⟩
      · exact (not_le.mp (mt hle.mp (by omega))).le
      · exact (hhalf.mpr h).ge
    have habs : |(n : ℝ) / d - ((n / d + 1 : ℕ) : ℝ)| = 1 - f := by
      rw [hx, Nat.cast_succ, abs_of_nonpos (by linarith)]
      ring
    refine ⟨by linarith, fun g => ?_⟩
    have : 2 * (n % d) = d := hhalf.mp (by linarith)
    exact Nat.even_iff.mpr (by omega)
  · next h =>
    have habs : |(n : ℝ) / d - ((n / d : ℕ) : ℝ)| = f := by
      rw [hx, add_sub_cancel_left, abs_of_nonneg hr0]
    refine ⟨habs.trans_le (hle.mpr (by omega)), fun g => ?_⟩
    have : 2 * (n % d) = d := hhalf.mp (habs.symm.trans g)
    exact Nat.even_iff.mpr (by omega)

/-- `round24` is `Round24` (R96). -/
theorem isRound24_round24 {n d : ℕ} (hn : 0 < n) (hd : 0 < d) :
    IsRound24 ((n : ℝ) / d) ((round24 n d).1 * 2 ^ (round24 n d).2) := by
  obtain ⟨hlo, hhi⟩ := floorLog2Ratio_bounds hn hd
  unfold round24
  dsimp only
  generalize floorLog2Ratio n d = l at hlo hhi
  have hx : (n : ℝ) / d = ((n * 2 ^ (-(l - 23)).toNat : ℕ) : ℝ) / ((d * 2 ^ (l - 23).toNat : ℕ) : ℝ) * 2 ^ (l - 23) := by
    push_cast
    rw [← two_zpow_mul_two_pow (l - 23)]
    field_simp
  have hp : (0 : ℝ) < 2 ^ (l - 23) := by positivity
  have hl : (2 : ℝ) ^ l = 2 ^ 23 * 2 ^ (l - 23) := by
    rw [← zpow_natCast, ← zpow_add₀ two_ne_zero]; congr 1; push_cast; ring
  have hl' : (2 : ℝ) ^ (l + 1) = 2 ^ 24 * 2 ^ (l - 23) := by
    rw [← zpow_natCast, ← zpow_add₀ two_ne_zero]; congr 1; push_cast; ring
  rw [hx, hl] at hlo
  rw [hx, hl'] at hhi
  rw [hx]
  exact isRound24_of_nearestEven _ (le_of_mul_le_mul_right hlo hp) (lt_of_mul_lt_mul_right hhi hp.le)
    (isNearestEven_div _ _ (by positivity))

/-! ### Narrowing -/

/-- The exponent that `narrowF` takes is that of its magnitude. -/
theorem narrow_exponent {k : ℕ} (hk : 0 < k) (q : ℤ) :
    (2 : ℝ) ^ (q + k.log2) ≤ k * 2 ^ q ∧ (k : ℝ) * 2 ^ q < 2 ^ (q + k.log2 + 1) := by
  obtain ⟨h1, h2⟩ := log2_bounds hk
  rw [zpow_add_one₀ two_ne_zero, zpow_add₀ two_ne_zero, zpow_natCast]
  have hp : (0 : ℝ) < 2 ^ q := by positivity
  exact ⟨by rw [mul_comm]; gcongr, by rw [mul_comm, mul_assoc]; gcongr⟩

/-- The mantissa that `narrowF` takes is the magnitude's, cut to 16 bits. -/
theorem narrow_mantissa {k : ℕ} (hk : 0 < k) :
    let m := k * 65536 / 2 ^ k.log2 - 65536
    m < 65536 ∧ (1 + (m : ℝ) / 65536) * 2 ^ k.log2 ≤ k ∧ (k : ℝ) < (1 + ((m : ℝ) + 1) / 65536) * 2 ^ k.log2 := by
  have h1 : 2 ^ k.log2 ≤ k := Nat.log2_self_le (by omega)
  have h2 : k < 2 ^ k.log2 * 2 := by rw [← pow_succ]; exact Nat.lt_log2_self
  have hp : 0 < 2 ^ k.log2 := Nat.two_pow_pos _
  have hlo : 65536 ≤ k * 65536 / 2 ^ k.log2 := by
    rw [Nat.le_div_iff_mul_le hp]; omega
  have hhi : k * 65536 / 2 ^ k.log2 < 131072 := by
    rw [Nat.div_lt_iff_lt_mul hp]; omega
  intro m
  have hm : k * 65536 / 2 ^ k.log2 = 65536 + m := by omega
  have hfloor : (65536 + m) * 2 ^ k.log2 ≤ k * 65536 := 
    (Nat.le_div_iff_mul_le hp).mp hm.ge
  have hceil : k * 65536 < (65536 + m + 1) * 2 ^ k.log2 := 
    (Nat.div_lt_iff_lt_mul hp).mp (by omega)
  have hfloor' : ((65536 : ℝ) + m) * 2 ^ k.log2 ≤ k * 65536 := by exact_mod_cast hfloor
  have hceil' : (k : ℝ) * 65536 < (65536 + m + 1) * 2 ^ k.log2 := by exact_mod_cast hceil
  exact ⟨by omega, by linarith, by linarith⟩

/-- `narrowF` is the flush, the overflow and the truncation of R96. -/
theorem narrowF_spec (s : Bool) {k : ℕ} (hk : 0 < k) (q : ℤ) :
    ((k : ℝ) * 2 ^ q < 2 ^ (-62 : ℤ) → narrowF s k q = zeroF s) ∧
    ((2 : ℝ) ^ (64 : ℤ) ≤ k * 2 ^ q → narrowF s k q = infF s) ∧
    ((2 : ℝ) ^ (-62 : ℤ) ≤ k * 2 ^ q → (k : ℝ) * 2 ^ q < 2 ^ (64 : ℤ) → ∃ e m : ℕ, classF (narrowF s k q) = .fin s e m ∧
      (1 + (m : ℝ) / 65536) * 2 ^ ((e : ℤ) - 63) ≤ k * 2 ^ q ∧
      (k : ℝ) * 2 ^ q < (1 + ((m : ℝ) + 1) / 65536) * 2 ^ ((e : ℤ) - 63)) := by
  obtain ⟨hlo, hhi⟩ := narrow_exponent hk q
  obtain ⟨hm, hfloor, hceil⟩ := narrow_mantissa hk
  have hle (a : ℤ) (h : (2 : ℝ) ^ a ≤ k * 2 ^ q) : a ≤ q + k.log2 :=
    Int.lt_add_one_iff.mp ((zpow_lt_zpow_iff_right₀ one_lt_two).mp (h.trans_lt hhi))
  have hlt (a : ℤ) (h : (k : ℝ) * 2 ^ q < 2 ^ a) : q + k.log2 < a :=
    (zpow_lt_zpow_iff_right₀ one_lt_two).mp (hlo.trans_lt h)
  unfold narrowF
  dsimp only
  refine ⟨fun h => if_pos (hlt _ h), fun h => ?_, fun h1 h2 => ?_⟩
  · have := hle _ h
    rw [if_neg (by omega), if_pos this]
  · have he1 := hle _ h1
    have he2 := hlt _ h2
    rw [if_neg (by omega), if_neg (by omega)]
    refine ⟨_, _, classF_packF_fin s _ _ (by omega) (by omega) hm, ?_⟩
    have he : (((q + k.log2 + 63).toNat : ℕ) : ℤ) - 63 = k.log2 + q := by omega
    have hp : (0 : ℝ) < 2 ^ q := by positivity
    rw [he, zpow_add₀ two_ne_zero, zpow_natCast, ← mul_assoc, ← mul_assoc]
    exact ⟨mul_le_mul_of_nonneg_right hfloor hp.le, mul_lt_mul_of_pos_right hceil hp⟩

/-! ### `Res` -/

/-- The sign of a value as a factor. -/
noncomputable abbrev signR (s : Bool) : ℝ := if s then -1 else 1

theorem abs_signR_mul (s : Bool) {x : ℝ} (hx : 0 ≤ x) : |signR s * x| = x := by
  cases s <;> simp [signR, abs_of_nonneg hx]

theorem signR_mul_neg (s : Bool) {x : ℝ} (hx : 0 < x) : s = true ↔ signR s * x < 0 := by
  cases s <;> simp [signR, hx, hx.le]

/-- `res` is `Res` of R96, of the signed ratio. -/
theorem isRes_res (s : Bool) (n d : ℕ) (sz : Bool) (hd : 0 < d) :
    IsRes (signR s * ((n : ℝ) / d)) sz (res s n d sz) := by
  have hd' : (0 : ℝ) < d := by exact_mod_cast hd
  unfold res
  rcases Nat.eq_zero_or_pos n with rfl | hn
  · exact ⟨fun _ => if_pos rfl, fun h => absurd (by simp) h⟩
  · have hx : (0 : ℝ) < (n : ℝ) / d := by positivity
    refine ⟨fun h => ?_, fun _ => ⟨s, (round24 n d).1 * 2 ^ (round24 n d).2, signR_mul_neg s hx, ?_, ?_⟩⟩
    · have := abs_signR_mul s hx.le
      rw [h, abs_zero] at this
      exact absurd this hx.ne
    · rw [abs_signR_mul s hx.le]
      exact isRound24_round24 hn hd
    · rw [if_neg hn.ne']
      exact narrowF_spec s (round24_pos n d hn hd) _

/-- Settles O12: the significand of the nearest even integer in the binade, then the three cases of the narrowing. -/
theorem resIsCorrectlyRounded : Obligations.ResIsCorrectlyRounded := by
  unfold Obligations.ResIsCorrectlyRounded
  exact fun s n d sz hd => isRes_res s n d sz hd

end Sys2Proof.Machine

/-! SUPPORT. The real values of finite operands (R91), and the tables of addition, multiplication and reciprocal
(R100, R104, R111). -/

namespace Sys2Proof.Machine

open Sys2Proof.Claims

/-! ### Real values -/

theorem signR_bne (s t : Bool) : signR (s != t) = signR s * signR t := by
  cases s <;> cases t <;> simp [signR]

theorem signR_mul_self (s : Bool) : signR s * signR s = 1 := by
  cases s <;> simp [signR]

theorem valR_of_zero {a : F24} {s : Bool} (h : classF a = .zero s) : valR a = 0 := by
  unfold valR; rw [h]

/-- The value of a finite operand with its 17-bit significand as an integer. -/
theorem valR_of_fin {a : F24} {s : Bool} {e m : ℕ} (h : classF a = .fin s e m) :
    valR a = signR s * ((65536 + m) * 2 ^ ((e : ℤ) - 79)) := by
  have he : ((e : ℤ) - 63) = (e - 79) + 16 := by ring
  unfold valR
  rw [h]
  dsimp only
  rw [he, zpow_add₀ two_ne_zero, show (2 : ℝ) ^ (16 : ℤ) = 65536 by norm_num]
  ring

theorem natAbs_scaledF (s : Bool) (e m : ℕ) : (scaledF s e m).natAbs = (65536 + m) * 2 ^ (e - 1) := by
  unfold scaledF
  cases s
  · exact Int.natAbs_natCast _
  · exact (Int.natAbs_neg _).trans (Int.natAbs_natCast _)

/-- A bound on the magnitude of a finite value by its exponent. -/
theorem natAbs_scaledF_lt (s : Bool) {e m : ℕ} (n : ℕ) (hm : m < 65536) (he : e ≤ n + 1) :
    (scaledF s e m).natAbs < 2 ^ 17 * 2 ^ n := by
  rw [natAbs_scaledF]
  calc (65536 + m) * 2 ^ (e - 1) < 2 ^ 17 * 2 ^ (e - 1) := by gcongr; omega
    _ ≤ 2 ^ 17 * 2 ^ n := by gcongr <;> omega

theorem scaledF_cast (s : Bool) (e m : ℕ) : (scaledF s e m : ℝ) = signR s * ((scaledF s e m).natAbs : ℕ) := by
  rw [natAbs_scaledF]
  unfold scaledF
  cases s <;> simp [signR]

/-- `scaledF` is the value in units of 2^-78, up to the sign. -/
theorem valR_eq_natAbs {a : F24} {s : Bool} {e m : ℕ} (h : classF a = .fin s e m) :
    valR a = signR s * (((scaledF s e m).natAbs : ℕ) / 2 ^ 78) := by
  obtain ⟨he, -⟩ := classF_fin a s e m h
  have hexp : ((e : ℤ) - 79) = (e - 1 : ℕ) - (78 : ℕ) := by omega
  rw [valR_of_fin h, natAbs_scaledF, hexp, zpow_sub₀ two_ne_zero, zpow_natCast, zpow_natCast]
  push_cast
  ring

/-- `scaledF` is the value in units of 2^-78. -/
theorem valR_eq_scaledF {a : F24} {s : Bool} {e m : ℕ} (h : classF a = .fin s e m) :
    valR a = (scaledF s e m : ℝ) / 2 ^ 78 := by
  rw [valR_eq_natAbs h, scaledF_cast, mul_div_assoc]

/-- `Res` of a ratio whose numerator carries the sign. -/
theorem isRes_intRatio (v : ℤ) (d : ℕ) (sz : Bool) (hd : 0 < d) :
    IsRes ((v : ℝ) / d) sz (res (decide (v < 0)) v.natAbs d sz) := by
  have hv : (v : ℝ) = signR (decide (v < 0)) * (v.natAbs : ℕ) := by
    rw [Nat.cast_natAbs, Int.cast_abs]
    by_cases h : v < 0
    · rw [abs_of_neg (by exact_mod_cast h)]; simp [signR, h]
    · rw [abs_of_nonneg (by exact_mod_cast not_lt.mp h)]; simp [signR, h]
  have := isRes_res (decide (v < 0)) v.natAbs d sz hd
  rwa [← mul_div_assoc, ← hv] at this

/-! ### Addition and multiplication -/

/-- `fadd` of finite operands is `Res` of the real sum (R100). -/
theorem isRes_fadd {a b : F24} {s t : Bool} {e m f n : ℕ} (ha : classF a = .fin s e m) (hb : classF b = .fin t f n) :
    IsRes (valR a + valR b) false (fadd a b) := by
  have hsum : valR a + valR b = ((scaledF s e m + scaledF t f n : ℤ) : ℝ) / (2 ^ 78 : ℕ) := by
    rw [valR_eq_scaledF ha, valR_eq_scaledF hb, ← add_div, Int.cast_add, Nat.cast_pow,
      Nat.cast_ofNat]
  have hadd : fadd a b = res (decide (scaledF s e m + scaledF t f n < 0)) (scaledF s e m + scaledF t f n).natAbs
      (2 ^ 78) false := by
    simp only [fadd, ha, hb]
  rw [hsum, hadd]
  exact isRes_intRatio _ _ _ (Nat.two_pow_pos 78)

/-- `fmul` of finite operands is `Res` of the real product (R104). -/
theorem isRes_fmul {a b : F24} {s t : Bool} {e m f n : ℕ} (ha : classF a = .fin s e m) (hb : classF b = .fin t f n) :
    IsRes (valR a * valR b) (s != t) (fmul a b) := by
  have hprod : valR a * valR b =
      signR (s != t) * (((scaledF s e m).natAbs * (scaledF t f n).natAbs : ℕ) / (2 ^ 156 : ℕ)) := by
    rw [valR_eq_natAbs ha, valR_eq_natAbs hb, signR_bne]
    push_cast
    ring
  have hmul : fmul a b = res (s != t) ((scaledF s e m).natAbs * (scaledF t f n).natAbs) (2 ^ 156) (s != t) := by
    simp only [fmul, ha, hb]
  rw [hprod, hmul]
  exact isRes_res _ _ _ _ (Nat.two_pow_pos 156)

/-- A NaN operand makes the sum a NaN (R100). -/
theorem fadd_nan {a b : F24} (h : classF a = .nan ∨ classF b = .nan) : classF (fadd a b) = .nan := by
  have hadd : fadd a b = nanResult .add a b := by
    rcases h with h | h
    · simp only [fadd, h]
    · cases ha : classF a <;> simp only [fadd, ha, h]
  rw [hadd, classF_nanResult]

/-- A NaN operand makes the product a NaN (R104). -/
theorem fmul_nan {a b : F24} (h : classF a = .nan ∨ classF b = .nan) : classF (fmul a b) = .nan := by
  have hmul : fmul a b = nanResult .mul a b := by
    rcases h with h | h
    · simp only [fmul, h]
    · cases ha : classF a <;> simp only [fmul, ha, h]
  rw [hmul, classF_nanResult]

/-- Settles O13, row by row, the last by `isRes_fadd`. -/
theorem addTable : Obligations.AddTable := by
  unfold Obligations.AddTable
  intro a b
  refine ⟨fadd_nan, fun s ha hb => ?_, fun s ha hb => ?_, fun s ha hb => ?_, fun s ha hb => ?_, fun s t ha hb => ?_,
    fun s t e m ha hb => ?_, fun s t e m ha hb => ?_, fun s e m t f n => isRes_fadd⟩
  · simp only [fadd, ha, hb, if_true]
  · have hs : s ≠ !s := by cases s <;> decide
    simp only [fadd, ha, hb, if_neg hs, classF_nanResult]
  · rcases hb with ⟨t, hb⟩ | ⟨t, f, n, hb⟩ <;> simp only [fadd, ha, hb]
  · rcases ha with ⟨t, ha⟩ | ⟨t, f, n, ha⟩ <;> simp only [fadd, ha, hb]
  · simp only [fadd, ha, hb]
  · simp only [fadd, ha, hb]
  · simp only [fadd, ha, hb]

/-- Settles O14, row by row, the last by `isRes_fmul`. -/
theorem mulTable : Obligations.MulTable := by
  unfold Obligations.MulTable
  intro a b
  have hzero : zeroF false = 0x000000#24 := by decide
  refine ⟨fmul_nan, fun s t ha hb => ?_, fun s t ha hb => ?_, fun s t ha hb => ?_, fun s t f n ha hb => ?_,
    fun s e m t ha hb => ?_, fun s t ha hb => ?_, fun s t f n ha hb => ?_, fun s e m t ha hb => ?_,
    fun s e m t f n ha hb => ?_⟩
  · simp only [fmul, ha, hb, hzero]
  · simp only [fmul, ha, hb, hzero]
  · simp only [fmul, ha, hb, Bool.bne_eq_xor]
  · simp only [fmul, ha, hb, Bool.bne_eq_xor]
  · simp only [fmul, ha, hb, Bool.bne_eq_xor]
  · simp only [fmul, ha, hb, Bool.bne_eq_xor]
  · simp only [fmul, ha, hb, Bool.bne_eq_xor]
  · simp only [fmul, ha, hb, Bool.bne_eq_xor]
  · exact (congrFun₂ Bool.bne_eq_xor s t) ▸ isRes_fmul ha hb

/-! ### Reciprocal -/

/-- `frcp` of a finite operand is `Res` of the real reciprocal (R111). -/
theorem isRes_frcp {a : F24} {s : Bool} {e m : ℕ} (ha : classF a = .fin s e m) : IsRes (1 / valR a) s (frcp a) := by
  have hpow : (2 : ℝ) ^ ((e : ℤ) - 79) * 2 ^ (79 - e) = 2 ^ (e - 79) := by
    have := two_zpow_mul_two_pow ((e : ℤ) - 79)
    rwa [show (-((e : ℤ) - 79)).toNat = 79 - e by omega, show ((e : ℤ) - 79).toNat = e - 79 by omega] at this
  have hinv : 1 / valR a = signR s * ((2 ^ (79 - e) : ℕ) / ((65536 + m) * 2 ^ (e - 79) : ℕ)) := by
    have hs : signR s ≠ 0 := left_ne_zero_of_mul_eq_one (signR_mul_self s)
    rw [valR_of_fin ha]
    push_cast
    rw [← hpow]
    field_simp
    rw [sq, signR_mul_self]
  have hrcp : frcp a = rcpFin s e m := by simp only [frcp, ha]
  rw [hinv, hrcp]
  exact isRes_res _ _ _ _ (by positivity)

/-- Settles O15, row by row, the last by `isRes_frcp`. -/
theorem rcpTable : Obligations.RcpTable := by
  unfold Obligations.RcpTable
  intro a
  refine ⟨fun ha => ?_, fun s ha => ?_, fun s ha => ?_, fun s e m => isRes_frcp⟩
  · simp only [frcp, ha, classF_nanResult]
  · simp only [frcp, ha]
  · simp only [frcp, ha]

end Sys2Proof.Machine

/-! SUPPORT. The tables of the reciprocal square root, exponential and logarithm (R113, R115, R116). -/

namespace Sys2Proof.Machine

open Sys2Proof.Claims

/-! ### Reciprocal square root -/

/-- The digits that `isqrtFrom` finds are those of the integer square root. -/
theorem isqrtFrom_spec (x bits acc : ℕ) (hlo : acc * acc ≤ x) (hhi : x < (acc + 2 ^ bits) * (acc + 2 ^ bits)) :
    isqrtFrom x bits acc * isqrtFrom x bits acc ≤ x ∧ x < (isqrtFrom x bits acc + 1) * (isqrtFrom x bits acc + 1) := by
  induction bits generalizing acc with
  | zero => exact ⟨hlo, hhi⟩
  | succ bits ih =>
    have htwo : acc + 2 ^ (bits + 1) = acc + 2 ^ bits + 2 ^ bits := by omega
    rw [htwo] at hhi
    unfold isqrtFrom
    dsimp only
    split
    · next h => exact ih _ h hhi
    · next h => exact ih _ hlo (not_le.mp h)

/-- The rounding of an integer's root: no tie, since a root is never halfway between two integers. -/
theorem isNearestEven_sqrt {x k : ℕ} (hlo : k * k ≤ x) (hhi : x < (k + 1) * (k + 1)) :
    IsNearestEven (√(x : ℝ)) (if x > k * k + k then k + 1 else k) := by
  have hk : (0 : ℝ) ≤ k := Nat.cast_nonneg k
  have hlo' : (k : ℝ) ≤ √x := Real.le_sqrt_of_sq_le (by rw [sq]; exact_mod_cast hlo)
  have hhi' : √(x : ℝ) < k + 1 := (Real.sqrt_lt' (by positivity)).mpr (by rw [sq]; exact_mod_cast hhi)
  split
  · next h =>
    have hx : (k : ℝ) * k + k + 1 ≤ x := by exact_mod_cast h
    have hhalf : (k : ℝ) + 1 / 2 < √x := Real.lt_sqrt_of_sq_lt (by linarith)
    have habs : |√(x : ℝ) - ((k + 1 : ℕ) : ℝ)| < 1 / 2 := by
      rw [Nat.cast_succ, abs_of_nonpos (by linarith)]
      linarith
    exact ⟨habs.le, fun g => absurd g habs.ne⟩
  · next h =>
    have hx : (x : ℝ) ≤ k * k + k := by exact_mod_cast not_lt.mp h
    have hhalf : √(x : ℝ) < k + 1 / 2 := (Real.sqrt_lt' (by positivity)).mpr (by linarith)
    have habs : |√(x : ℝ) - k| < 1 / 2 := by
      rw [abs_of_nonneg (by linarith)]
      linarith
    exact ⟨habs.le, fun g => absurd g habs.ne⟩

/-- The exponent of the rounded root. -/
def sqrtExp (e : ℕ) : ℤ := ((e : ℤ) - 63) / 2 - 23

/-- The scaled radicand of `sqrt24`, whose integer root has 24 bits. -/
def sqrtRadicand (e m : ℕ) : ℕ := (65536 + m) * 2 ^ ((e : ℤ) - 79 - 2 * sqrtExp e).toNat

/-- The two are what `sqrt24` computes with. -/
theorem sqrt24_eq (e m : ℕ) : sqrt24 e m =
    (if sqrtRadicand e m > isqrtFrom (sqrtRadicand e m) 24 0 * isqrtFrom (sqrtRadicand e m) 24 0 +
        isqrtFrom (sqrtRadicand e m) 24 0
      then isqrtFrom (sqrtRadicand e m) 24 0 + 1 else isqrtFrom (sqrtRadicand e m) 24 0, sqrtExp e) := rfl

theorem sqrtRadicand_bounds (e : ℕ) {m : ℕ} (hm : m < 65536) :
    2 ^ 46 ≤ sqrtRadicand e m ∧ sqrtRadicand e m < 2 ^ 48 := by
  unfold sqrtRadicand sqrtExp
  have h : ((e : ℤ) - 79 - 2 * (((e : ℤ) - 63) / 2 - 23)).toNat = 30 ∨
      ((e : ℤ) - 79 - 2 * (((e : ℤ) - 63) / 2 - 23)).toNat = 31 := by omega
  rcases h with h | h <;> rw [h] <;> omega

/-- The root of a positive finite value is that of the scaled radicand. -/
theorem sqrt_valR {a : F24} {e m : ℕ} (ha : classF a = .fin false e m) :
    √(valR a) = √(sqrtRadicand e m : ℝ) * 2 ^ sqrtExp e := by
  have hexp : ((e : ℤ) - 79) = ((e : ℤ) - 79 - 2 * sqrtExp e).toNat + (sqrtExp e + sqrtExp e) := by
    unfold sqrtExp; omega
  have hval : valR a = (sqrtRadicand e m : ℝ) * (2 ^ sqrtExp e * 2 ^ sqrtExp e) := by
    rw [valR_of_fin ha, hexp, zpow_add₀ two_ne_zero, zpow_add₀ two_ne_zero, zpow_natCast]
    unfold sqrtRadicand
    push_cast
    simp [signR, mul_assoc]
  rw [hval, Real.sqrt_mul (Nat.cast_nonneg _), Real.sqrt_mul_self (by positivity)]

/-- `sqrt24` is the rounded square root (R113). -/
theorem isRound24_sqrt24 {a : F24} {e m : ℕ} (ha : classF a = .fin false e m) :
    IsRound24 √(valR a) ((sqrt24 e m).1 * 2 ^ (sqrt24 e m).2) := by
  obtain ⟨-, -, hm, -⟩ := classF_fin a false e m ha
  obtain ⟨hlo, hhi⟩ := sqrtRadicand_bounds e hm
  obtain ⟨hk1, hk2⟩ := isqrtFrom_spec (sqrtRadicand e m) 24 0 (Nat.zero_le _) (by omega)
  rw [sqrt_valR ha, sqrt24_eq]
  refine isRound24_of_nearestEven _ (Real.le_sqrt_of_sq_le ?_) ((Real.sqrt_lt' (by positivity)).mpr ?_)
    (isNearestEven_sqrt hk1 hk2)
  · rw [← pow_mul]; exact_mod_cast hlo
  · rw [← pow_mul]; exact_mod_cast hhi

/-- `frsq` of a positive finite operand is `Res` of the reciprocal of the rounded root (R113). -/
theorem isRes_frsq {a : F24} {e m : ℕ} (ha : classF a = .fin false e m) :
    IsRes (1 / ((sqrt24 e m).1 * 2 ^ (sqrt24 e m).2)) false (frsq a) := by
  have hk := sqrt24_pos e m
  have hk' : (0 : ℝ) < (sqrt24 e m).1 := by exact_mod_cast hk
  have hinv : 1 / (((sqrt24 e m).1 : ℝ) * 2 ^ (sqrt24 e m).2) =
      signR false * ((2 ^ (-(sqrt24 e m).2).toNat : ℕ) / ((sqrt24 e m).1 * 2 ^ (sqrt24 e m).2.toNat : ℕ)) := by
    push_cast
    rw [← two_zpow_mul_two_pow (sqrt24 e m).2]
    simp only [signR, Bool.false_eq_true, if_false]
    field_simp
  have hrsq : frsq a = rsqFin e m := by simp only [frsq, ha]
  rw [hinv, hrsq]
  exact isRes_res _ _ _ _ (Nat.mul_pos hk (Nat.two_pow_pos _))

/-- Settles O16, row by row, the last by the rounding of the root and `isRes_frsq`. -/
theorem rsqTable : Obligations.RsqTable := by
  unfold Obligations.RsqTable
  intro a
  refine ⟨fun ha => ?_, fun s ha => ?_, fun e m ha => ?_, fun ha => ?_, fun ha => ?_,
    fun e m ha => ⟨_, isRound24_sqrt24 ha, isRes_frsq ha⟩⟩
  · simp only [frsq, ha, classF_nanResult]
  · simp only [frsq, ha]
  · simp only [frsq, ha, classF_nanResult]
  · simp only [frsq, ha, classF_nanResult]
  · simp only [frsq, ha]

/-! ### Exponential and logarithm -/

/-- The class of the open parameter of EX2 (R115). -/
theorem pEx2_cases (a : F24) :
    pEx2 a = zeroF false ∨ pEx2 a = infF false ∨ ∃ e m, classF (pEx2 a) = .fin false e m := by
  unfold pEx2
  split
  · next e m h => exact .inr (.inr ⟨e, m, h⟩)
  · exact .inr (.inl rfl)
  · exact .inl rfl

/-- The class of the open parameter of LG2 (R116). -/
theorem isFinite_pLg2 (a : F24) : isFinite (pLg2 a) := by
  unfold pLg2
  split
  · next s e m h => exact .inr ⟨s, e, m, h⟩
  · next s _ => exact .inl ⟨s, classF_zeroF s⟩
  · exact .inl ⟨false, classF_zeroF false⟩

/-- Settles O17, row by row; the open rows by what the parameters are cut down to. -/
theorem ex2Lg2Rows : Obligations.Ex2Lg2Rows := by
  unfold Obligations.Ex2Lg2Rows
  intro a
  refine ⟨fun ha => ?_, fun ha => ?_, fun ha => ?_, fun ha => ?_, fun s ha => ?_, fun e m ha => ?_, fun e m ha => ?_⟩
  · simp only [fex2, flg2, ha, classF_nanResult, and_self]
  · simp only [fex2, flg2, ha, and_self]
  · simp only [fex2, flg2, ha, classF_nanResult, and_self]
  · have hex : fex2 a = pEx2 a := by
      rcases ha with ⟨s, ha⟩ | ⟨s, e, m, ha⟩ <;> simp only [fex2, ha]
    rw [hex]
    exact pEx2_cases a
  · simp only [flg2, ha]
  · simp only [flg2, ha, classF_nanResult]
  · have hlg : flg2 a = pLg2 a := by simp only [flg2, ha]
    rw [hlg]
    exact isFinite_pLg2 a

end Sys2Proof.Machine

/-! SUPPORT. Where `Res` is exact, and the integer parts: `ffloor` and `ftoi` (R109, R118). -/

namespace Sys2Proof.Machine

open Sys2Proof.Claims

/-! ### Where `Res` is exact -/

/-- A magnitude of at most 17 significant bits has exactly 17. -/
theorem exists_significand17 {j : ℕ} (p : ℕ) (h0 : 0 < j) (hj : j < 2 ^ 17) :
    ∃ (j' : ℕ) (p' : ℤ), 2 ^ 16 ≤ j' ∧ j' < 2 ^ 17 ∧ ((j * 2 ^ p : ℕ) : ℝ) = (j' : ℝ) * 2 ^ p' := by
  have h1 : 2 ^ j.log2 ≤ j := Nat.log2_self_le (by omega)
  have h2 : j < 2 ^ (j.log2 + 1) := Nat.lt_log2_self
  have hl : j.log2 ≤ 16 := by
    by_contra h
    have := Nat.pow_le_pow_right (n := 2) (by decide) (show 17 ≤ j.log2 by omega)
    omega
  have hc (b : ℕ) (hb : j.log2 ≤ b) : 2 ^ b = 2 ^ (b - j.log2) * 2 ^ j.log2 := by
    rw [← pow_add]; congr 1; omega
  refine ⟨j * 2 ^ (16 - j.log2), (p : ℤ) - (16 - j.log2 : ℕ), ?_, ?_, ?_⟩
  · rw [hc 16 hl, mul_comm j]
    exact Nat.mul_le_mul_left _ h1
  · have h17 : 2 ^ 17 = 2 ^ (j.log2 + 1) * 2 ^ (16 - j.log2) := by
      rw [← pow_add]; congr 1; omega
    rw [h17]
    exact Nat.mul_lt_mul_of_pos_right h2 (Nat.two_pow_pos _)
  · rw [zpow_sub₀ two_ne_zero, zpow_natCast, zpow_natCast]
    push_cast
    field_simp

/-- The truncation to 17 bits of a magnitude of 17 bits is that magnitude. -/
theorem truncation_exact {j m : ℕ} {p e : ℤ} (hj1 : 2 ^ 16 ≤ j) (hj2 : j < 2 ^ 17) (hm : m < 65536)
    (hlo : (1 + (m : ℝ) / 65536) * 2 ^ (e - 63) ≤ j * 2 ^ p)
    (hhi : (j : ℝ) * 2 ^ p < (1 + ((m : ℝ) + 1) / 65536) * 2 ^ (e - 63)) :
    (j : ℝ) * 2 ^ p = (65536 + m) * 2 ^ (e - 79) := by
  have he : (2 : ℝ) ^ (e - 63) = 65536 * 2 ^ (e - 79) := by
    rw [show e - 63 = 16 + (e - 79) by ring, zpow_add₀ two_ne_zero]; norm_num
  have hj1' : (65536 : ℝ) ≤ j := by exact_mod_cast hj1
  have hj2' : (j : ℝ) < 131072 := by exact_mod_cast hj2
  have hm' : (m : ℝ) + 1 ≤ 65536 := by exact_mod_cast hm
  have hp : (0 : ℝ) < 2 ^ p := by positivity
  have hq : (0 : ℝ) < 2 ^ (e - 79) := by positivity
  have hlo' : ((65536 : ℝ) + m) * 2 ^ (e - 79) ≤ j * 2 ^ p := by
    rw [he] at hlo; linarith
  have hhi' : (j : ℝ) * 2 ^ p < (65536 + m + 1) * 2 ^ (e - 79) := by
    rw [he] at hhi; linarith
  have hpe : p = e - 79 := by
    have h1 : (2 : ℝ) ^ (e - 79) < 2 ^ (p + 1) := by
      rw [zpow_add_one₀ two_ne_zero]; nlinarith
    have h2 : (2 : ℝ) ^ p < 2 ^ (e - 79 + 1) := by
      rw [zpow_add_one₀ two_ne_zero]; nlinarith
    have := (zpow_lt_zpow_iff_right₀ one_lt_two).mp h1
    have := (zpow_lt_zpow_iff_right₀ one_lt_two).mp h2
    omega
  rw [hpe] at hlo' hhi' ⊢
  have h1 : 65536 + m ≤ j := by exact_mod_cast le_of_mul_le_mul_right hlo' hq
  have h2 : j < 65536 + m + 1 := by exact_mod_cast lt_of_mul_lt_mul_right hhi' hq.le
  rw [show j = 65536 + m by omega]
  push_cast
  rfl

/-- `Res` of an integer of at most 17 significant bits is exact. -/
theorem valR_of_isRes {v : ℝ} {sz : Bool} {x : F24} (h : IsRes v sz x) (hv : v ≠ 0) {j p : ℕ} (hj : j < 2 ^ 17)
    (hp : p ≤ 47) (habs : |v| = (j * 2 ^ p : ℕ)) : isFinite x ∧ valR x = v := by
  have hn : 0 < j * 2 ^ p := by
    have : (0 : ℝ) < (j * 2 ^ p : ℕ) := habs ▸ abs_pos.mpr hv
    exact_mod_cast this
  have hbig : j * 2 ^ p < 2 ^ 64 :=
    calc j * 2 ^ p < 2 ^ 17 * 2 ^ p := Nat.mul_lt_mul_of_pos_right hj (Nat.two_pow_pos p)
      _ ≤ 2 ^ 17 * 2 ^ 47 := Nat.mul_le_mul_left _ (Nat.pow_le_pow_right (by decide) hp)
      _ = 2 ^ 64 := by norm_num
  obtain ⟨s, r, hs, ⟨-, hnear, -⟩, -, -, hfin⟩ := h.2 hv
  obtain ⟨j', p', hj1, hj2, hjp⟩ := exists_significand17 p (Nat.pos_of_mul_pos_right hn) hj
  have hrep : Representable24 |v| := by
    refine ⟨j' * 2 ^ 7, p' - 7, by omega, by omega, ?_⟩
    rw [habs, hjp, zpow_sub₀ two_ne_zero, Nat.cast_mul, show (2 : ℝ) ^ (7 : ℤ) = 128 by norm_num]
    push_cast
    ring
  have hr : r = |v| := by
    have := hnear _ hrep
    rw [sub_self, abs_zero] at this
    linarith [abs_eq_zero.mp (le_antisymm this (abs_nonneg _))]
  have hlo : (2 : ℝ) ^ (-62 : ℤ) ≤ r := by
    rw [hr, habs]
    exact (zpow_le_one_of_nonpos₀ one_le_two (by decide)).trans (by exact_mod_cast hn)
  have hhi : r < (2 : ℝ) ^ (64 : ℤ) := by
    rw [hr, habs]
    exact_mod_cast hbig
  obtain ⟨e, m, hx, h1, h2⟩ := hfin hlo hhi
  rw [hr, habs, hjp] at h1 h2
  have hmag : |v| = (65536 + m) * 2 ^ ((e : ℤ) - 79) := by
    rw [habs, hjp]
    exact truncation_exact hj1 hj2 (classF_fin x s e m hx).2.2.1 h1 h2
  refine ⟨.inr ⟨s, e, m, hx⟩, ?_⟩
  rw [valR_of_fin hx, ← hmag]
  cases s with
  | true => rw [abs_of_neg (hs.mp rfl)]; simp [signR]
  | false =>
    have hnn : 0 ≤ v := not_lt.mp fun g => Bool.noConfusion (hs.mpr g)
    rw [abs_of_nonneg hnn]; simp [signR]

/-! ### Floor -/

/-- The floor of a finite operand, computed on the scaled integer. -/
theorem floor_valR {a : F24} {s : Bool} {e m : ℕ} (ha : classF a = .fin s e m) :
    ⌊valR a⌋ = scaledF s e m / 2 ^ 78 := by
  have := Int.floor_div_natCast (scaledF s e m : ℝ) (2 ^ 78)
  rw [Int.floor_intCast, Nat.cast_pow, Nat.cast_ofNat] at this
  rw [valR_eq_scaledF ha, this]
  norm_cast

/-- The floor of a finite operand has at most 17 significant bits: it is the operand itself, or at most 2^16. -/
theorem floor_significand {s : Bool} {e m : ℕ} (he : e ≤ 126) (hm : m < 65536) :
    ∃ j p : ℕ, j < 2 ^ 17 ∧ p ≤ 47 ∧ (scaledF s e m / 2 ^ 78).natAbs = j * 2 ^ p := by
  by_cases h : 79 ≤ e
  · refine ⟨65536 + m, e - 79, by omega, by omega, ?_⟩
    have hz : (scaledF s e m).natAbs = (65536 + m) * 2 ^ (e - 79) * 2 ^ 78 := by
      rw [natAbs_scaledF, mul_assoc, ← pow_add]
      congr 2
      omega
    omega
  · refine ⟨(scaledF s e m / 2 ^ 78).natAbs, 0, ?_, by decide, (mul_one _).symm⟩
    have hz := natAbs_scaledF_lt s 77 hm (by omega : e ≤ 78)
    omega

/-- `ffloor` of a finite operand is `Res` of the floor (R109). -/
theorem isRes_ffloor {a : F24} {s : Bool} {e m : ℕ} (ha : classF a = .fin s e m) :
    IsRes (⌊valR a⌋ : ℝ) false (ffloor a) := by
  have hfloor : ffloor a = res (decide (scaledF s e m / 2 ^ 78 < 0)) (scaledF s e m / 2 ^ 78).natAbs 1 false := by
    simp only [ffloor, ha]
  have := isRes_intRatio (scaledF s e m / 2 ^ 78) 1 false Nat.one_pos
  rwa [Nat.cast_one, div_one, ← hfloor, ← floor_valR ha] at this

/-- Settles O18: the floor is in the range where `Res` is exact. -/
theorem floorRule : Obligations.FloorRule := by
  unfold Obligations.FloorRule
  intro a
  refine ⟨fun ha => ?_, fun s ha => ?_, fun s ha => ?_, fun s e m ha => ?_⟩
  · simp only [ffloor, ha]
  · simp only [ffloor, ha]
  · simp only [ffloor, ha]
  have hres := isRes_ffloor ha
  have hzero (h : ⌊valR a⌋ = 0) : ffloor a = zeroF false := hres.1 (by rw [h, Int.cast_zero])
  suffices isFinite (ffloor a) ∧ valR (ffloor a) = (⌊valR a⌋ : ℝ) from ⟨this.1, this.2, hzero⟩
  by_cases h : ⌊valR a⌋ = 0
  · rw [hzero h, h, valR_of_zero (classF_zeroF false), Int.cast_zero]
    exact ⟨.inl ⟨false, classF_zeroF false⟩, rfl⟩
  · obtain ⟨-, he, hm, -⟩ := classF_fin a s e m ha
    obtain ⟨j, p, hj, hp, hjp⟩ := floor_significand (s := s) he hm
    refine valR_of_isRes hres (Int.cast_ne_zero.mpr h) hj hp ?_
    rw [← hjp, ← floor_valR ha, Nat.cast_natAbs, Int.cast_abs]

/-! ### Float to integer -/

/-- Division of integers toward zero, over the reals. -/
theorem tdiv_eq_floor_or_ceil (z : ℤ) {d : ℕ} (hd : 0 < d) :
    Int.tdiv z d = if 0 ≤ (z : ℝ) / d then ⌊(z : ℝ) / d⌋ else ⌈(z : ℝ) / d⌉ := by
  have hd' : (0 : ℝ) < d := by exact_mod_cast hd
  have hfloor (y : ℤ) : ⌊(y : ℝ) / d⌋ = y / d := by
    rw [Int.floor_div_natCast, Int.floor_intCast]
  have hsign : 0 ≤ (z : ℝ) / d ↔ 0 ≤ z := by
    rw [le_div_iff₀ hd', zero_mul, Int.cast_nonneg_iff]
  split
  · next h => rw [hfloor, Int.tdiv_eq_ediv_of_nonneg (hsign.mp h)]
  · next h =>
    have hz : 0 ≤ -z := by
      have := mt hsign.mpr h
      omega
    have hceil : ⌈(z : ℝ) / d⌉ = -⌊((-z : ℤ) : ℝ) / d⌋ := by
      rw [Int.cast_neg, neg_div, Int.floor_neg, neg_neg]
    rw [hceil, hfloor, ← Int.tdiv_eq_ediv_of_nonneg hz, Int.neg_tdiv, neg_neg]

/-- The exponent of a finite operand of magnitude below 2^31. -/
theorem exponent_lt_of_abs_lt {a : F24} {s : Bool} {e m : ℕ} (ha : classF a = .fin s e m)
    (h : |valR a| < (2 : ℝ) ^ (31 : ℤ)) : e < 94 := by
  have hp : (0 : ℝ) < 2 ^ ((e : ℤ) - 79) := by positivity
  rw [valR_of_fin ha, abs_signR_mul s (by positivity)] at h
  have hexp : (2 : ℝ) ^ ((e : ℤ) - 63) < 2 ^ (31 : ℤ) := by
    refine lt_of_le_of_lt ?_ h
    rw [show (e : ℤ) - 63 = 16 + (e - 79) by ring, zpow_add₀ two_ne_zero]
    gcongr
    norm_num
  have := (zpow_lt_zpow_iff_right₀ one_lt_two).mp hexp
  omega

/-- Settles O21: division of the scaled integer toward zero, which fits in 32 bits below 2^31. -/
theorem ftoiTruncates : Obligations.FtoiTruncates := by
  unfold Obligations.FtoiTruncates
  rintro a (⟨s, ha⟩ | ⟨s, e, m, ha⟩) hbound
  · have hftoi : ftoi a = 0#32 := by simp only [ftoi, ha]
    rw [hftoi, valR_of_zero ha]
    simp
  · have he := exponent_lt_of_abs_lt ha hbound
    obtain ⟨-, -, hm, -⟩ := classF_fin a s e m ha
    have hftoi : ftoi a = BitVec.ofInt 32 (Int.tdiv (scaledF s e m) (2 ^ 78)) := by
      simp only [ftoi, ha, if_pos he]
    have hz := natAbs_scaledF_lt s 92 hm (by omega : e ≤ 93)
    have hfit : (Int.tdiv (scaledF s e m) (2 ^ 78)).natAbs < 2 ^ 31 := by
      rw [Int.natAbs_tdiv]
      exact (Nat.div_lt_iff_lt_mul (Nat.two_pow_pos 78)).mpr (by omega)
    have htrunc := tdiv_eq_floor_or_ceil (scaledF s e m) (Nat.two_pow_pos 78)
    rw [Nat.cast_pow, Nat.cast_ofNat, Nat.cast_pow, Nat.cast_ofNat, ← valR_eq_scaledF ha] at htrunc
    rw [hftoi, BitVec.toInt_ofInt, Int.bmod_eq_of_le (by omega) (by omega), htrunc]

end Sys2Proof.Machine

/-! SUPPORT. The order of f24 values is that of the extended reals (R98): comparisons, maximum and minimum (R99, R107,
R108). -/

namespace Sys2Proof.Machine

open Sys2Proof.Claims

/-! ### The order -/

/-- The extended real at a place of the order of R98: the places are units of 2^-78, the infinities stand at
the two ends. -/
noncomputable def placeR (x : ℤ) : EReal :=
  if x ≤ -(2 ^ 143) then ⊥ else if 2 ^ 143 ≤ x then ⊤ else ((x / 2 ^ 78 : ℝ) : EReal)

theorem placeR_inner {x : ℤ} (h1 : -(2 ^ 143) < x) (h2 : x < 2 ^ 143) : placeR x = ((x / 2 ^ 78 : ℝ) : EReal) := by
  unfold placeR
  rw [if_neg (by omega), if_neg (by omega)]

/-- The places between the infinities, and those of the infinities, are in order. -/
theorem placeR_strictMonoOn : StrictMonoOn placeR (Set.Icc (-(2 ^ 143)) (2 ^ 143)) := by
  rintro x ⟨hx1, -⟩ y ⟨-, hy2⟩ hxy
  have hreal : (x : ℝ) / 2 ^ 78 < y / 2 ^ 78 := by
    have : (x : ℝ) < y := by exact_mod_cast hxy
    gcongr
  unfold placeR
  by_cases hx : x ≤ -(2 ^ 143)
  · rw [if_pos hx, if_neg (by omega)]
    split
    · exact bot_lt_top
    · exact EReal.bot_lt_coe _
  · rw [if_neg hx, if_neg (by omega), if_neg (by omega)]
    split
    · exact EReal.coe_lt_top _
    · exact EReal.coe_lt_coe_iff.mpr hreal

/-- The place of a value that is not a NaN, and the extended real there. -/
theorem orderKey_spec {a : F24} (ha : classF a ≠ .nan) :
    ∃ x ∈ Set.Icc (-(2 ^ 143) : ℤ) (2 ^ 143), orderKey a = some x ∧ extR a = placeR x := by
  cases h : classF a with
  | zero s =>
    refine ⟨0, ⟨by decide, by decide⟩, by simp only [orderKey, h], ?_⟩
    rw [placeR_inner (by decide) (by decide)]
    simp only [extR, h, valR_of_zero h, Int.cast_zero, zero_div]
  | fin s e m =>
    obtain ⟨-, he, hm, -⟩ := classF_fin a s e m h
    have hz := natAbs_scaledF_lt s 125 hm he
    refine ⟨scaledF s e m, ⟨by omega, by omega⟩, by simp only [orderKey, h], ?_⟩
    rw [placeR_inner (by omega) (by omega)]
    simp only [extR, h, valR_eq_scaledF h]
  | inf s =>
    refine ⟨if s then -(2 ^ 143) else 2 ^ 143, ?_, by simp only [orderKey, h], ?_⟩
    · cases s <;> exact ⟨by decide, by decide⟩
    · cases s <;> simp [extR, h, placeR]
  | nan => exact absurd h ha

theorem orderKey_nan {a : F24} (ha : classF a = .nan) : orderKey a = none := by
  simp only [orderKey, ha]

/-- An unordered pair (R98, R99). -/
theorem compareF_nan {a b : F24} (h : classF a = .nan ∨ classF b = .nan) (onNaN : Bool) (rel : ℤ → ℤ → Bool) :
    compareF onNaN rel a b = onNaN := by
  unfold compareF
  rcases h with h | h
  · rw [orderKey_nan h]
  · rw [orderKey_nan h]; cases orderKey a <;> rfl

/-- An ordered pair: the comparison is the relation of the places, which are ordered as the extended reals are. -/
theorem compareF_ordered {a b : F24} (ha : classF a ≠ .nan) (hb : classF b ≠ .nan) :
    ∃ x y : ℤ, (∀ onNaN rel, compareF onNaN rel a b = rel x y) ∧ (x = y ↔ extR a = extR b) ∧
      (x < y ↔ extR a < extR b) ∧ (x ≤ y ↔ extR a ≤ extR b) ∧ (y < x ↔ extR b < extR a) ∧
      (y ≤ x ↔ extR b ≤ extR a) := by
  obtain ⟨x, hx, hkx, hex⟩ := orderKey_spec ha
  obtain ⟨y, hy, hky, hey⟩ := orderKey_spec hb
  refine ⟨x, y, fun onNaN rel => by unfold compareF; rw [hkx, hky], ?_⟩
  rw [hex, hey]
  have hmono := placeR_strictMonoOn
  exact ⟨(hmono.eq_iff_eq hx hy).symm, (hmono.lt_iff_lt hx hy).symm, (hmono.le_iff_le hx hy).symm,
    (hmono.lt_iff_lt hy hx).symm, (hmono.le_iff_le hy hx).symm⟩

/-- Settles O20: a comparison looks at the places in the order alone. -/
theorem compareRule : Obligations.CompareRule := by
  unfold Obligations.CompareRule
  refine fun a b => ⟨fun h => ?_, fun ha hb => ?_⟩
  · exact ⟨compareF_nan h _ _, compareF_nan h _ _, compareF_nan h _ _, compareF_nan h _ _, compareF_nan h _ _,
      compareF_nan h _ _⟩
  · obtain ⟨x, y, hcmp, heq, hlt, hle, hgt, hge⟩ := compareF_ordered ha hb
    simp only [fcmpEq, fcmpNe, fcmpLt, fcmpLe, fcmpGt, fcmpGe, hcmp, decide_eq_true_iff]
    exact ⟨heq, heq.not, hlt, hle, hgt, hge⟩

/-- Settles O19, by the comparisons that select the operand (R107, R108). -/
theorem maxMinRule : Obligations.MaxMinRule := by
  unfold Obligations.MaxMinRule
  intro a b
  obtain ⟨hnan, hord⟩ := compareRule a b
  have hmax (c : Bool) (h : fcmpGt a b = c) : fmax a b = if c then a else b := by unfold fmax; rw [h]
  have hmin (c : Bool) (h : fcmpLt a b = c) : fmin a b = if c then a else b := by unfold fmin; rw [h]
  refine ⟨fun h => ?_, fun ha hb => ?_⟩
  · obtain ⟨-, -, hlt, -, hgt, -⟩ := hnan h
    exact ⟨hmax _ hgt, hmin _ hlt⟩
  · obtain ⟨-, -, hlt, -, hgt, -⟩ := hord ha hb
    have hlt' := Bool.eq_false_iff.trans hlt.not
    have hgt' := Bool.eq_false_iff.trans hgt.not
    exact ⟨fun h => ⟨hmax _ (hgt.mpr h), hmin _ (hlt'.mpr h.not_gt)⟩,
      fun h => ⟨hmax _ (hgt'.mpr h.not_gt), hmin _ (hlt.mpr h)⟩,
      fun h => ⟨hmax _ (hgt'.mpr h.not_gt), hmin _ (hlt'.mpr h.not_lt)⟩⟩

end Sys2Proof.Machine

/-! SUPPORT. The conversions between binary32 and f24 (R93, R95). -/

namespace Sys2Proof.Machine

open Sys2Proof.Claims

/-! ### F24FromF32 -/

section
variable {b : Word}

theorem f24FromF32_nan (he : b.toNat / 8388608 % 256 = 255) (hf : b.toNat % 8388608 ≠ 0) :
    classF (f24FromF32 b) = .nan := by
  unfold f24FromF32
  dsimp only
  rw [if_pos he, if_neg hf, classF_nanOfBits]

theorem f24FromF32_inf (he : b.toNat / 8388608 % 256 = 255) (hf : b.toNat % 8388608 = 0) :
    f24FromF32 b = infF (b.getLsbD 31) := by
  unfold f24FromF32
  dsimp only
  rw [if_pos he, if_pos hf]

theorem f24FromF32_flush (he : b.toNat / 8388608 % 256 ≤ 64) : f24FromF32 b = zeroF (b.getLsbD 31) := by
  unfold f24FromF32
  dsimp only
  rw [if_neg (by omega), if_pos he]

theorem f24FromF32_overflow (he : 191 ≤ b.toNat / 8388608 % 256) (he' : b.toNat / 8388608 % 256 ≤ 254) :
    f24FromF32 b = infF (b.getLsbD 31) := by
  unfold f24FromF32
  dsimp only
  rw [if_neg (by omega), if_neg (by omega), if_pos he]

theorem f24FromF32_normal (he : 65 ≤ b.toNat / 8388608 % 256) (he' : b.toNat / 8388608 % 256 ≤ 190) :
    f24FromF32 b = packF (b.getLsbD 31) (b.toNat / 8388608 % 256 - 64) (b.toNat % 8388608 / 128) := by
  unfold f24FromF32
  dsimp only
  rw [if_neg (by omega), if_neg (by omega), if_neg (by omega)]

end

/-- The fraction of a binary32 value, cut to 16 bits. -/
theorem fraction_truncation (f : ℕ) :
    1 + ((f / 128 : ℕ) : ℝ) / 65536 ≤ 1 + (f : ℝ) / 2 ^ 23 ∧
      1 + (f : ℝ) / 2 ^ 23 < 1 + (((f / 128 : ℕ) : ℝ) + 1) / 65536 := by
  have h1 : ((f / 128 : ℕ) : ℝ) * 128 ≤ f := by exact_mod_cast Nat.div_mul_le_self f 128
  have h2 : (f : ℝ) < (((f / 128 : ℕ) : ℝ) + 1) * 128 := by
    exact_mod_cast (show f < (f / 128 + 1) * 128 by omega)
  constructor <;> linarith

/-! ### F24ToF32 -/

/-- The fields of a binary32 pattern built of a sign, an exponent and a fraction. -/
theorem fields_f32 (s : Bool) {e f : ℕ} (he : e < 256) (hf : f < 8388608) :
    let b := BitVec.ofNat 32 (s.toNat * 2147483648 + e * 8388608 + f)
    b.toNat / 8388608 % 256 = e ∧ b.toNat % 8388608 = f ∧ b.getLsbD 31 = s := by
  intro b
  have hs := Bool.toNat_le s
  have hb : b.toNat = s.toNat * 2147483648 + e * 8388608 + f := by
    rw [BitVec.toNat_ofNat]
    exact Nat.mod_eq_of_lt (by omega)
  refine ⟨by omega, by omega, ?_⟩
  rw [BitVec.getLsbD, Nat.testBit_eq_decide_div_mod_eq, hb]
  cases s <;> simp only [Bool.toNat_true, Bool.toNat_false, decide_eq_true_eq, decide_eq_false_iff_not] <;> omega

/-- A canonical pattern that reads as a zero is the zero of its sign (R92). -/
theorem eq_zeroF_of_canonical {a : F24} {s : Bool} (h : classF a = .zero s) (hc : Canonical a) : a = zeroF s := by
  rw [classF_eq] at h
  split at h
  · next he =>
    cases h
    rw [← packF_fields a, he, hc he, signF_packF _ _ _ (by decide) (by decide)]
    rfl
  · split at h
    · split at h <;> cases h
    · cases h

/-- Widening a value that is not a NaN and converting back gives the value. -/
theorem f24FromF32_f24ToF32 {a : F24} (ha : classF a ≠ .nan) (hc : Canonical a) : f24FromF32 (f24ToF32 a) = a := by
  cases h : classF a with
  | zero s =>
    obtain ⟨he, -, hs⟩ := fields_f32 s (e := 0) (f := 0) (by decide) (by decide)
    have hw : f24ToF32 a = BitVec.ofNat 32 (s.toNat * 2147483648 + 0 * 8388608 + 0) := by
      simp only [f24ToF32, h, Nat.zero_mul, Nat.add_zero]
    rw [hw, f24FromF32_flush (by omega), hs, eq_zeroF_of_canonical h hc]
  | fin s e m =>
    obtain ⟨h1, h2, hm, hpack⟩ := classF_fin a s e m h
    obtain ⟨he, hf, hs⟩ := fields_f32 s (e := e + 64) (f := m * 128) (by omega) (by omega)
    have hw : f24ToF32 a = BitVec.ofNat 32 (s.toNat * 2147483648 + (e + 64) * 8388608 + m * 128) := by
      simp only [f24ToF32, h]
    rw [hw, f24FromF32_normal (by omega) (by omega), he, hf, hs, Nat.add_sub_cancel,
      Nat.mul_div_cancel m (by decide), hpack]
  | inf s =>
    obtain ⟨he, hf, hs⟩ := fields_f32 s (e := 255) (f := 0) (by decide) (by decide)
    have hw : f24ToF32 a = BitVec.ofNat 32 (s.toNat * 2147483648 + 255 * 8388608 + 0) := by
      simp only [f24ToF32, h, Nat.add_zero]
    rw [hw, f24FromF32_inf he hf, hs, classF_inf a s h]
  | nan => exact absurd h ha

/-- Widening a NaN and converting back gives a NaN, whatever its free bits. -/
theorem classF_f24FromF32_f24ToF32_nan {a : F24} (ha : classF a = .nan) : classF (f24FromF32 (f24ToF32 a)) = .nan := by
  have hw : ∃ p q : ℕ, 0 < q ∧ q < 8388608 ∧
      f24ToF32 a = BitVec.ofNat 32 (p % 2 * 2147483648 + 255 * 8388608 + q) := by
    refine ⟨(Config.nanF32Bits a).toNat / 2147483648,
      if (Config.nanF32Bits a).toNat % 8388608 = 0 then 1 else (Config.nanF32Bits a).toNat % 8388608, ?_, ?_, ?_⟩
    · split <;> omega
    · split <;> omega
    · simp only [f24ToF32, ha]
  obtain ⟨p, q, hq, hq', hw⟩ := hw
  have hb : (f24ToF32 a).toNat = p % 2 * 2147483648 + 255 * 8388608 + q := by
    rw [hw, BitVec.toNat_ofNat]
    exact Nat.mod_eq_of_lt (by omega)
  exact f24FromF32_nan (by omega) (by omega)

/-- Settles O22, by one equation for each range of the exponent and, for the way back, by class. -/
theorem f32Conversions : Obligations.F32Conversions := by
  unfold Obligations.F32Conversions
  refine ⟨fun b => ⟨f24FromF32_nan, f24FromF32_inf, f24FromF32_flush, f24FromF32_overflow, fun he he' => ?_⟩,
    fun a => f24FromF32_f24ToF32, fun a => classF_f24FromF32_f24ToF32_nan⟩
  have he0 : 65 ≤ b.toNat / 8388608 % 256 := he
  have he1 : b.toNat / 8388608 % 256 ≤ 190 := he'
  have hexp : ((b.toNat / 2 ^ 23 % 256 : ℕ) : ℤ) - 127 = ((b.toNat / 8388608 % 256 - 64 : ℕ) : ℤ) - 63 := by omega
  obtain ⟨hlo, hhi⟩ := fraction_truncation (b.toNat % 2 ^ 23)
  have hp : (0 : ℝ) < 2 ^ (((b.toNat / 8388608 % 256 - 64 : ℕ) : ℤ) - 63) := by positivity
  refine ⟨_, _, f24FromF32_normal he0 he1 ▸ classF_packF_fin _ _ _ (by omega) (by omega) (by omega), ?_⟩
  rw [hexp]
  exact ⟨mul_le_mul_of_nonneg_right hlo hp.le, mul_lt_mul_of_pos_right hhi hp⟩

end Sys2Proof.Machine

/-! SUPPORT. What the ALU makes of a pattern that is not canonical (R91, R94): the primitives that are no bit copy
answer on it what they answer on its value. -/

namespace Sys2Proof.Machine

open Sys2Proof.Claims

/-! ### Patterns and values -/

/-- A pattern and its value differ only where it reads as a zero. -/
theorem f24FromRaw_of_class {a : F24} (h : ∀ s, classF a ≠ .zero s) : f24FromRaw a = a := by
  refine f24FromRaw_of_exp a fun he => h (signF a) ?_
  rw [classF_eq, if_pos he]

theorem f24FromRaw_of_fin {a : F24} {s : Bool} {e m : ℕ} (h : classF a = .fin s e m) : f24FromRaw a = a :=
  f24FromRaw_of_class fun _ g => nomatch h.symm.trans g

theorem f24FromRaw_of_inf {a : F24} {s : Bool} (h : classF a = .inf s) : f24FromRaw a = a :=
  f24FromRaw_of_class fun _ g => nomatch h.symm.trans g

theorem f24FromRaw_of_nan {a : F24} (h : classF a = .nan) : f24FromRaw a = a :=
  f24FromRaw_of_class fun _ g => nomatch h.symm.trans g

/-- A canonical pattern is its own value (R92, R94). -/
theorem f24FromRaw_of_canonical {a : F24} (h : Canonical a) : f24FromRaw a = a := by
  unfold f24FromRaw
  split
  · next he =>
    calc zeroF (signF a) = packF (signF a) (expF a) (manF a) := by rw [he, h he]; rfl
      _ = a := packF_fields a
  · rfl

/-- The value of a pattern as `patternValue` says it, on the bits (R94). -/
theorem patternValue_eq (r : F24) : patternValue r = f24FromRaw r := by
  have hexp : r.extractLsb' 16 7 = 0 ↔ expF r = 0 := by
    rw [← BitVec.toNat_inj, BitVec.extractLsb'_toNat, Nat.shiftRight_eq_div_pow]
    rfl
  have hsign : r &&& 0x800000#24 = zeroF (signF r) := by
    rw [show (0x800000#24) = BitVec.twoPow 24 23 by decide, BitVec.and_twoPow, ← signF]
    cases signF r <;> decide
  unfold patternValue f24FromRaw
  rw [hsign]
  exact if_congr hexp rfl rfl

/-! ### The primitives on patterns -/

theorem orderKey_f24FromRaw (a : F24) : orderKey (f24FromRaw a) = orderKey a := by
  unfold orderKey; rw [classF_f24FromRaw]

theorem compareF_f24FromRaw (onNaN : Bool) (rel : ℤ → ℤ → Bool) (a b : F24) :
    compareF onNaN rel (f24FromRaw a) (f24FromRaw b) = compareF onNaN rel a b := by
  unfold compareF; rw [orderKey_f24FromRaw, orderKey_f24FromRaw]

theorem ftoi_f24FromRaw (a : F24) : ftoi (f24FromRaw a) = ftoi a := by
  cases h : classF a with
  | zero s => simp only [ftoi, classF_f24FromRaw, h]
  | fin s e m => rw [f24FromRaw_of_fin h]
  | inf s => rw [f24FromRaw_of_inf h]
  | nan => rw [f24FromRaw_of_nan h]

theorem ffloor_f24FromRaw (a : F24) : ffloor (f24FromRaw a) = ffloor a := by
  cases h : classF a with
  | zero s => simp only [ffloor, classF_f24FromRaw, h]
  | fin s e m => rw [f24FromRaw_of_fin h]
  | inf s => rw [f24FromRaw_of_inf h]
  | nan => rw [f24FromRaw_of_nan h]

theorem frcp_f24FromRaw (a : F24) : frcp (f24FromRaw a) = frcp a := by
  unfold frcp; rw [classF_f24FromRaw, nanResult_f24FromRaw]

theorem frsq_f24FromRaw (a : F24) : frsq (f24FromRaw a) = frsq a := by
  unfold frsq; rw [classF_f24FromRaw, nanResult_f24FromRaw]

theorem pEx2_f24FromRaw (a : F24) : pEx2 (f24FromRaw a) = pEx2 a := by
  unfold pEx2; rw [f24FromRaw_f24FromRaw]

theorem fex2_f24FromRaw (a : F24) : fex2 (f24FromRaw a) = fex2 a := by
  unfold fex2; rw [classF_f24FromRaw, nanResult_f24FromRaw, pEx2_f24FromRaw]

theorem flg2_f24FromRaw (a : F24) : flg2 (f24FromRaw a) = flg2 a := by
  cases h : classF a with
  | zero s => simp only [flg2, classF_f24FromRaw, h]
  | fin s e m => rw [f24FromRaw_of_fin h]
  | inf s => rw [f24FromRaw_of_inf h]
  | nan => rw [f24FromRaw_of_nan h]

/-- A sum copies an operand only where the other is a zero and it is finite, hence its own value. -/
theorem fadd_f24FromRaw (a b : F24) : fadd (f24FromRaw a) (f24FromRaw b) = fadd a b := by
  unfold fadd
  rw [classF_f24FromRaw, classF_f24FromRaw, nanResult_f24FromRaw]
  cases ha : classF a <;> cases hb : classF b
  case zero.fin => exact f24FromRaw_of_fin hb
  case fin.zero => exact f24FromRaw_of_fin ha
  all_goals rfl

theorem fmul_f24FromRaw (a b : F24) : fmul (f24FromRaw a) (f24FromRaw b) = fmul a b := by
  unfold fmul; rw [classF_f24FromRaw, classF_f24FromRaw, nanResult_f24FromRaw]

/-- The product of a multiply-add is canonical, so it is its own value. -/
theorem fmad_f24FromRaw (a b c : F24) : fmad (f24FromRaw a) (f24FromRaw b) (f24FromRaw c) = fmad a b c :=
  calc fmad (f24FromRaw a) (f24FromRaw b) (f24FromRaw c) = fadd (fmul a b) (f24FromRaw c) := by
        unfold fmad; rw [fmul_f24FromRaw]
    _ = fadd (f24FromRaw (fmul a b)) (f24FromRaw c) := by rw [f24FromRaw_of_canonical (canonical_fmul a b)]
    _ = fmad a b c := fadd_f24FromRaw _ _

/-! ### Vectors and source reads -/

theorem loadedValue_of_canonical {v : Vec4} (h : CanonicalVec v) : loadedValue v = v := by
  obtain ⟨hx, hy, hz, hw⟩ := h
  unfold loadedValue Vec4.map
  rw [f24FromRaw_of_canonical hx, f24FromRaw_of_canonical hy, f24FromRaw_of_canonical hz, f24FromRaw_of_canonical hw]

theorem isValueOf_loadedValue (t : Vec4) : IsValueOf t (loadedValue t) := by
  intro k
  rw [patternValue_eq]
  match k with
  | 0 => rfl
  | 1 => rfl
  | 2 => rfl
  | 3 => rfl

/-- A source read does not look at the outputs: with any canonical file in their place, the unit is canonical. -/
theorem canonicalVec_reads {x : ShaderUnit} (hv : CanonicalFile x.v) (hr : CanonicalFile x.r) (hc : CanonicalFile x.c)
    (idx : AddrIdx) (n : NarrowSrc) (m : WideSrc) : CanonicalVec (readNarrow x n) ∧ CanonicalVec (readWide x idx m) := by
  have h : UnitCanonical { x with o := x.r } := ⟨hr, hr, hv, hc⟩
  have hn : readNarrow { x with o := x.r } n = readNarrow x n := by cases n <;> rfl
  have hm : readWide { x with o := x.r } idx m = readWide x idx m := by
    cases m
    case c => cases idx <;> rfl
    all_goals rfl
  exact ⟨hn ▸ canonicalVec_readNarrow h n, hm ▸ canonicalVec_readWide h idx m⟩

/-- Settles O23, part by part: values of patterns, primitives on patterns, source reads, bit copies, results. -/
theorem aluResultsCanonical : Obligations.AluResultsCanonical := by
  unfold Obligations.AluResultsCanonical
  refine ⟨fun t v w0 w1 w2 w3 => ?_, fun a b => ?_, fun x idx n m hv hr hc => canonicalVec_reads hv hr hc idx n m,
    fun a b ha hb => ⟨canonical_fmax ha hb, canonical_fmin ha hb, canonical_fneg ha⟩, fun a b c => ?_⟩
  · exact ⟨⟨canonical_f24FromRaw _, canonical_f24FromRaw _, canonical_f24FromRaw _, canonical_f24FromRaw _⟩,
      canonicalVec_unpackF32 w0 w1 w2 w3, isValueOf_loadedValue t, loadedValue_of_canonical⟩
  · have hcmp (onNaN : Bool) (rel : ℤ → ℤ → Bool) := compareF_f24FromRaw onNaN rel a b
    exact ⟨classF_f24FromRaw a, hcmp _ _, hcmp _ _, hcmp _ _, hcmp _ _, hcmp _ _, hcmp _ _, ftoi_f24FromRaw a,
      ffloor_f24FromRaw a, frcp_f24FromRaw a, frsq_f24FromRaw a, fex2_f24FromRaw a, flg2_f24FromRaw a,
      congrArg fset (hcmp _ _), congrArg fset (hcmp _ _), fadd_f24FromRaw a b, fmul_f24FromRaw a b,
      fmad_f24FromRaw a b⟩
  · exact ⟨canonical_fadd a b, canonical_fmul a b, canonical_fmad a b c, canonical_ffloor a, canonical_frcp a,
      canonical_frsq a, canonical_fex2 a, canonical_flg2 a, canonical_fsge a b, canonical_fslt a b,
      canonical_f24FromRaw a, canonical_f24FromF32⟩

end Sys2Proof.Machine

/-! SUPPORT. The operand pipeline (R130 to R133), component by component, and the dot products and multiply-adds over
it (R137 to R142). -/

namespace Sys2Proof.Machine

open Sys2Proof.Claims

/-! ### Operands -/

/-- A selector field is the two bits of the selector byte. -/
theorem lane_eq_comp (v : Vec4) (n : BitVec 2) : v.lane n = comp v (Fin.ofNat 4 n.toNat) := by
  have h : n = 0 ∨ n = 1 ∨ n = 2 ∨ n = 3 := by revert n; decide
  rcases h with rfl | rfl | rfl | rfl <;> rfl

/-- Component `k` of a selected operand (R71, R132): its selector field, then the negation. -/
theorem comp_swizzle (v : Vec4) (sel : BitVec 8) (neg : Bool) (k : Fin 4) :
    comp (swizzle v sel neg) k =
      if neg then fneg (comp v (Fin.ofNat 4 (sel.toNat / 2 ^ (6 - 2 * k.val))))
      else comp v (Fin.ofNat 4 (sel.toNat / 2 ^ (6 - 2 * k.val))) := by
  have hlane (p : ℕ) : v.lane (sel.extractLsb' p 2) = comp v (Fin.ofNat 4 (sel.toNat / 2 ^ p)) := by
    rw [lane_eq_comp, BitVec.extractLsb'_toNat, Nat.shiftRight_eq_div_pow]
    exact congrArg (comp v) (Fin.ext (Nat.mod_mod _ 4))
  unfold swizzle
  rw [hlane, hlane, hlane, hlane]
  match k, neg with
  | 0, true | 1, true | 2, true | 3, true => rfl
  | 0, false | 1, false | 2, false | 3, false => rfl

/-- The selector of source `i` names the component that the descriptor's bits name (R70). -/
theorem selector_div (d : Word) (i : Fin 3) (k : Fin 4) :
    Fin.ofNat 4 ((field d (5 + 9 * i.val) 8).toNat / 2 ^ (6 - 2 * k.val)) = selected d i k := by
  refine Fin.ext (?_ : (field d (5 + 9 * i.val) 8).toNat / 2 ^ (6 - 2 * k.val) % 4 =
    d.toNat / 2 ^ (5 + 9 * i.val + (6 - 2 * k.val)) % 4)
  rw [toNat_field, pow_add _ (5 + 9 * i.val), ← Nat.div_div_eq_div_mul]
  generalize d.toNat / 2 ^ (5 + 9 * i.val) = n
  have hfield (p : ℕ) (hp : p ≤ 6) : n % 2 ^ 8 / 2 ^ p % 4 = n / 2 ^ p % 4 := by
    interval_cases p <;> omega
  exact hfield _ (by omega)

/-- A source after its selector and negation is the operand of the descriptor's bits (R70, R72, R132). -/
theorem comp_source (d : Word) (i : Fin 3) (v : Vec4) (k : Fin 4) :
    comp (swizzle v (field d (5 + 9 * i.val) 8) (flagAt d (4 + 9 * i.val))) k = operand d i v k := by
  rw [comp_swizzle, selector_div]
  rfl

theorem comp_source1 (d : Word) (v : Vec4) : comp (source1 d v) = operand d 0 v := funext (comp_source d 0 v)

theorem comp_source2 (d : Word) (v : Vec4) : comp (source2 d v) = operand d 1 v := funext (comp_source d 1 v)

theorem comp_source3 (d : Word) (v : Vec4) : comp (source3 d v) = operand d 2 v := funext (comp_source d 2 v)

/-! ### The destination -/

/-- The enabled components are the new ones (R133). -/
theorem comp_mergeVec (d : Word) (old new : Vec4) (k : Fin 4) :
    comp (mergeVec (descMask d) old new) k = if enabled d k then comp new k else comp old k := by
  have hbit (j : ℕ) (hj : j < 4) : (descMask d).getLsbD j = d.getLsbD j := by
    unfold descMask field
    rw [BitVec.getLsbD_extractLsb', decide_eq_true hj, Bool.true_and, Nat.zero_add]
  unfold mergeVec
  rw [hbit 0 (by decide), hbit 1 (by decide), hbit 2 (by decide), hbit 3 (by decide)]
  match k with
  | 0 | 1 | 2 | 3 => rfl

/-- A destination register after the write. -/
theorem destReg_writeDest_same (x : ShaderUnit) (dest : Dest) (mask : BitVec 4) (val : Vec4) :
    destReg (writeDest x dest mask val) dest = mergeVec mask (destReg x dest) val := by
  cases dest with
  | o n => exact Vector.getElem_set_self n.isLt
  | r n => exact Vector.getElem_set_self n.isLt

theorem destReg_writeDest_other (x : ShaderUnit) {dest e : Dest} (mask : BitVec 4) (val : Vec4) (h : e ≠ dest) :
    destReg (writeDest x dest mask val) e = destReg x e := by
  match dest, e with
  | .o n, .o k => exact Vector.getElem_set_ne n.isLt k.isLt fun g => h (congrArg Dest.o (Fin.ext g.symm))
  | .r n, .r k => exact Vector.getElem_set_ne n.isLt k.isLt fun g => h (congrArg Dest.r (Fin.ext g.symm))
  | .o _, .r _ | .r _, .o _ => rfl

/-- Every arithmetic instruction with a destination completes, and changes that register and the pc alone (R130). -/
theorem writesDest_finish (s : State) (dest : Dest) (d : Word) (val : Vec4) :
    ∃ t, s.finish dest d val = .next t ∧ WritesDest s t dest d (comp val) := by
  refine ⟨_, finish_eq s dest d val, ?_⟩
  have hu := State.unit_cur_setCur s { writeDest s.curUnit dest (descMask d) val with pc := s.curUnit.pc + 1 }
  have hreg (e : Dest) : destReg { writeDest s.curUnit dest (descMask d) val with pc := s.curUnit.pc + 1 } e =
      destReg (writeDest s.curUnit dest (descMask d) val) e := by cases e <;> rfl
  constructor
  · intro k
    rw [hu, hreg, destReg_writeDest_same, comp_mergeVec]
  · intro e he
    rw [hu, hreg, destReg_writeDest_other _ _ _ he]
  · rw [hu]
  · rw [hu]
    cases dest <;> rfl
  · rw [hu]; rfl
  · intro a
    rw [State.guest_setCur]

/-! ### Formats 1, 1i, 5 and 5i -/

/-- A format 1 instruction whose vector function is `g` of the operand components has the result `g` (R61). -/
theorem result1_of_runFormat1 {mk : Dest → AddrIdx → WideSrc → NarrowSrc → BitVec 7 → Instr} {f : Vec4 → Vec4 → Vec4}
    {g : (Fin 4 → F24) → (Fin 4 → F24) → Fin 4 → F24}
    (hexec : ∀ dest idx src1 src2 desc s, exec (mk dest idx src1 src2 desc) s = runFormat1 f dest idx src1 src2 desc s)
    (hf : ∀ a b, comp (f a b) = g (comp a) (comp b)) : Result1 mk g := by
  intro dest idx src1 src2 desc s
  rw [hexec, runFormat1_eq, ← comp_source1, ← comp_source2, ← hf]
  exact writesDest_finish s dest _ _

/-- A format 1i instruction whose vector function is `g` of the operand components has the result `g` (R62). -/
theorem result1i_of_runFormat1i {mk : Dest → AddrIdx → NarrowSrc → WideSrc → BitVec 7 → Instr}
    {f : Vec4 → Vec4 → Vec4} {g : (Fin 4 → F24) → (Fin 4 → F24) → Fin 4 → F24}
    (hexec : ∀ dest idx src1 src2 desc s, exec (mk dest idx src1 src2 desc) s = runFormat1i f dest idx src1 src2 desc s)
    (hf : ∀ a b, comp (f a b) = g (comp a) (comp b)) : Result1i mk g := by
  intro dest idx src1 src2 desc s
  rw [hexec, runFormat1i_eq, ← comp_source1, ← comp_source2, ← hf]
  exact writesDest_finish s dest _ _

/-! ### Dot products -/

/-- Three products, left to right from +0 (R117). -/
theorem fdot3_eq (a b : Vec4) : fdot3 a b =
    fadd (fadd (fadd 0x000000#24 (fmul (comp a 0) (comp b 0))) (fmul (comp a 1) (comp b 1)))
      (fmul (comp a 2) (comp b 2)) := rfl

/-- Four products, left to right from +0 (R117). -/
theorem fdot4_eq (a b : Vec4) : fdot4 a b =
    fadd (fadd (fadd (fadd 0x000000#24 (fmul (comp a 0) (comp b 0))) (fmul (comp a 1) (comp b 1)))
      (fmul (comp a 2) (comp b 2))) (fmul (comp a 3) (comp b 3)) := rfl

theorem comp_splat (a : F24) : comp (Vec4.splat a) = fun _ => a := by
  funext k
  match k with
  | 0 | 1 | 2 | 3 => rfl

/-- Settles O27: the four are the sums above, in every component. -/
theorem dotProductResult : Obligations.DotProductResult := by
  unfold Obligations.DotProductResult
  refine ⟨result1_of_runFormat1 (f := fun a b => Vec4.splat (fdot3 a b)) (fun _ _ _ _ _ _ => rfl) fun a b => ?_,
    result1_of_runFormat1 (f := fun a b => Vec4.splat (fdot4 a b)) (fun _ _ _ _ _ _ => rfl) fun a b => ?_,
    result1_of_runFormat1 (f := fun a b => Vec4.splat (fdot4 (homogeneous a) b)) (fun _ _ _ _ _ _ => rfl) fun a b => ?_,
    result1i_of_runFormat1i (f := fun a b => Vec4.splat (fdot4 (homogeneous a) b)) (fun _ _ _ _ _ _ => rfl)
      fun a b => ?_⟩
  · rw [comp_splat, fdot3_eq]
  · rw [comp_splat, fdot4_eq]
  · rw [comp_splat, fdot4_eq]; rfl
  · rw [comp_splat, fdot4_eq]; rfl

/-! ### Multiply-add -/

/-- The rounded product plus the third operand (R106), in every component. -/
theorem comp_map3_fmad (a b c : Vec4) :
    comp (Vec4.map3 fmad a b c) = fun k => fadd (fmul (comp a k) (comp b k)) (comp c k) := by
  funext k
  match k with
  | 0 | 1 | 2 | 3 => rfl

/-- Settles O29: both formats end in the write of the multiply-add of the three operands. -/
theorem multiplyAddResult : Obligations.MultiplyAddResult := by
  unfold Obligations.MultiplyAddResult
  constructor
  · intro dest idx src1 src2 src3 desc s
    have hexec : exec (.mad dest idx src1 src2 src3 desc) s = runFormat5 (Vec4.map3 fmad) dest idx src1 src2 src3 desc s :=
      rfl
    rw [hexec, runFormat5_eq, ← comp_source1, ← comp_source2, ← comp_source3, ← comp_map3_fmad]
    exact writesDest_finish s dest _ _
  · intro dest idx src1 src2 src3 desc s
    have hexec : exec (.madi dest idx src1 src2 src3 desc) s = runFormat5i (Vec4.map3 fmad) dest idx src1 src2 src3 desc s :=
      rfl
    rw [hexec, runFormat5i_eq, ← comp_source1, ← comp_source2, ← comp_source3, ← comp_map3_fmad]
    exact writesDest_finish s dest _ _

end Sys2Proof.Machine

/-! SUPPORT. The componentwise and scalar instructions of formats 1, 1i and 1u over the operand pipeline (R135, R136,
R143 to R150, R160 to R164), the source read with its address offset (R131), and the no-operations that leave an anomaly
(R151 to R153, R175, R177, R186). -/

namespace Sys2Proof.Machine

open Sys2Proof.Claims

/-! ### Functions on every component -/

theorem comp_map (f : F24 → F24) (a : Vec4) : comp (Vec4.map f a) = fun k => f (comp a k) := by
  funext k
  match k with
  | 0 | 1 | 2 | 3 => rfl

theorem comp_map2 (f : F24 → F24 → F24) (a b : Vec4) : comp (Vec4.map2 f a b) = fun k => f (comp a k) (comp b k) := by
  funext k
  match k with
  | 0 | 1 | 2 | 3 => rfl

/-- A scalar function reads component 0 of its operand and gives its result to every component (R160). -/
theorem comp_broadcastX (f : F24 → F24) (a : Vec4) : comp (broadcastX f a) = fun _ => f (comp a 0) := comp_splat (f a.x)

/-- The results of `fset` in raw bits (R119). -/
theorem fset_eq_oneOrZero (p : Bool) : fset p = oneOrZero p := by
  cases p <;> rfl

theorem comp_map2_fsge (a b : Vec4) :
    comp (Vec4.map2 fsge a b) = fun k => oneOrZero (fcmpGe (comp a k) (comp b k)) := by
  rw [comp_map2]
  exact funext fun k => fset_eq_oneOrZero _

theorem comp_map2_fslt (a b : Vec4) :
    comp (Vec4.map2 fslt a b) = fun k => oneOrZero (fcmpLt (comp a k) (comp b k)) := by
  rw [comp_map2]
  exact funext fun k => fset_eq_oneOrZero _

/-! ### Two sources -/

/-- Settles O25: the four are format 1 instructions whose primitive works component by component. -/
theorem addMulMaxMinResult : Obligations.AddMulMaxMinResult := by
  unfold Obligations.AddMulMaxMinResult
  exact ⟨result1_of_runFormat1 (fun _ _ _ _ _ _ => rfl) (comp_map2 fadd),
    result1_of_runFormat1 (fun _ _ _ _ _ _ => rfl) (comp_map2 fmul),
    result1_of_runFormat1 (fun _ _ _ _ _ _ => rfl) (comp_map2 fmax),
    result1_of_runFormat1 (fun _ _ _ _ _ _ => rfl) (comp_map2 fmin)⟩

/-- Settles O26: the inverted forms have the component function of the plain ones, over the sources of format 1i. -/
theorem setOnCompareResult : Obligations.SetOnCompareResult := by
  unfold Obligations.SetOnCompareResult
  exact ⟨result1_of_runFormat1 (fun _ _ _ _ _ _ => rfl) comp_map2_fsge,
    result1_of_runFormat1 (fun _ _ _ _ _ _ => rfl) comp_map2_fslt,
    result1i_of_runFormat1i (fun _ _ _ _ _ _ => rfl) comp_map2_fsge,
    result1i_of_runFormat1i (fun _ _ _ _ _ _ => rfl) comp_map2_fslt⟩

/-! ### One source -/

/-- A format 1u instruction whose vector function is `g` of the operand components has the result `g` (R63). -/
theorem result1u_of_runFormat1u {mk : Dest → AddrIdx → WideSrc → BitVec 7 → Instr} {f : Vec4 → Vec4}
    {g : (Fin 4 → F24) → Fin 4 → F24}
    (hexec : ∀ dest idx src1 desc s, exec (mk dest idx src1 desc) s = runFormat1u f dest idx src1 desc s)
    (hf : ∀ a, comp (f a) = g (comp a)) : Result1u mk g := by
  intro dest idx src1 desc s
  rw [hexec, runFormat1u_eq, ← comp_source1, ← hf]
  exact writesDest_finish s dest _ _

/-- Settles O28: FLR and MOV work on every component, the scalar functions on component 0. -/
theorem oneSourceResult : Obligations.OneSourceResult := by
  unfold Obligations.OneSourceResult
  exact ⟨result1u_of_runFormat1u (fun _ _ _ _ _ => rfl) (comp_map ffloor),
    result1u_of_runFormat1u (f := id) (fun _ _ _ _ _ => rfl) fun _ => rfl,
    result1u_of_runFormat1u (fun _ _ _ _ _ => rfl) (comp_broadcastX frcp),
    result1u_of_runFormat1u (fun _ _ _ _ _ => rfl) (comp_broadcastX frsq),
    result1u_of_runFormat1u (fun _ _ _ _ _ => rfl) (comp_broadcastX fex2),
    result1u_of_runFormat1u (fun _ _ _ _ _ => rfl) (comp_broadcastX flg2)⟩

/-! ### The address offset -/

/-- The seven bits of the offset are the offset modulo 128, so the sum in seven bits is that of R131. -/
theorem toNat_add_windowOffset (n : BitVec 7) (a : Word) :
    ((n + windowOffset a).toNat : Int) =
      ((n.toNat : Int) + (if -128 ≤ a.toInt ∧ a.toInt ≤ 127 then a.toInt else 0)) % 128 := by
  have ha := BitVec.toInt_eq_toNat_cond a
  unfold windowOffset
  split
  · rw [BitVec.toNat_add, BitVec.toNat_setWidth]
    omega
  · rw [BitVec.add_zero]
    omega

theorem readUniform_of_lt (x : ShaderUnit) {i : BitVec 7} (h : i.toNat < 96) : readUniform x i = x.c[i.toNat] := dif_pos h

theorem readUniform_of_ge (x : ShaderUnit) {i : BitVec 7} (h : 96 ≤ i.toNat) : readUniform x i = onesVec :=
  dif_neg (Nat.not_lt.mpr h)

/-- Settles O24: an input or a temporary is read without the index, and a float uniform at the sum of its number and
the offset; the unit that runs is the one whose table is read. -/
theorem addressOffsetRule : Obligations.AddressOffsetRule := by
  unfold Obligations.AddressOffsetRule
  constructor
  · intro x idx a ha
    have hreg : addrReg x idx = a := by
      rcases ha with ⟨rfl, rfl⟩ | ⟨rfl, rfl⟩ | ⟨rfl, rfl⟩ | ⟨rfl, rfl⟩ <;> rfl
    refine ⟨fun n => ⟨rfl, rfl⟩, fun n => ⟨rfl, rfl⟩, fun n i hi => ?_⟩
    obtain rfl : i = (uniformIndex x idx n).toNat := by
      rw [← toNat_add_windowOffset, ← hreg] at hi
      exact Int.ofNat.inj hi
    exact ⟨readUniform_of_lt x, readUniform_of_ge x⟩
  · intro s d
    have hunit (u : UnitId) (h : s.cur = u) :
        s.cur = u ∧ s.curUnit = s.unit u ∧ s.descriptor d = swzWord u (s.unit u) d := by
      subst h
      exact ⟨rfl, rfl, rfl⟩
    exact ⟨fun h => hunit .gs ((State.cur_eq_gs s).mpr h), fun h => hunit .vs ((State.cur_eq_vs s).mpr h)⟩

/-! ### Decoding -/

/-- Settles O4: each of the eight is the decoder's value on one word. -/
theorem specWordsDecode : Obligations.SpecWordsDecode := by
  unfold Obligations.SpecWordsDecode
  refine ⟨?add, ?mul, ?mad, ?madi, ?cmp, ?callc, ?jmpu, ?setemit⟩ <;> decide

/-! ### No-operations with an anomaly -/

/-- Recording an anomaly and advancing changes the pc and the log alone. -/
theorem completes_raise_advance (s : State) (a : Anomaly) :
    Completes (.next (s.raise a).advance) s { s.curUnit with pc := s.curUnit.pc + 1 } [a] := by
  refine ⟨_, rfl, ?state, fun b => ?memory⟩
  case state =>
    unfold State.advance State.jump State.setCur
    rw [State.cur_raise, State.curUnit_raise]
    cases s.cur <;> rfl
  case memory => rw [State.guest_advance, State.guest_raise]

theorem completes_skipUnimplemented (s : State) (opcode : Nat) :
    Completes (s.skipUnimplemented opcode) s { s.curUnit with pc := s.curUnit.pc + 1 }
      [.unimplementedOpcode s.curUnit.pc opcode] := completes_raise_advance s _

theorem completes_skipUnknown (s : State) (opcode : Nat) :
    Completes (s.skipUnknown opcode) s { s.curUnit with pc := s.curUnit.pc + 1 } [.unknownOpcode s.curUnit.pc opcode] :=
  completes_raise_advance s _

/-- The ten opcodes without an instruction, with their numbers (R186). -/
def unassignedOpcodes : List (Instr × Nat) :=
  [(.unassigned10, 0x10), (.unassigned11, 0x11), (.unassigned14, 0x14), (.unassigned15, 0x15), (.unassigned16, 0x16),
    (.unassigned17, 0x17), (.unassigned1C, 0x1C), (.unassigned1D, 0x1D), (.unassigned1E, 0x1E), (.unassigned1F, 0x1F)]

theorem exec_of_mem_unassignedOpcodes {i : Instr} {op : Nat} (h : (i, op) ∈ unassignedOpcodes) (s : State) :
    exec i s = s.skipUnknown op := by
  have hall : ∀ p ∈ unassignedOpcodes, exec p.1 s = s.skipUnknown p.2 := by
    simp only [unassignedOpcodes, List.forall_mem_cons]
    exact ⟨rfl, rfl, rfl, rfl, rfl, rfl, rfl, rfl, rfl, rfl, fun _ hp => nomatch hp⟩
  exact hall (i, op) h

/-- Settles O32: five instructions skip as unimplemented, the ten opcodes without an instruction as unknown. -/
theorem noOperationOpcodes : Obligations.NoOperationOpcodes := by
  unfold Obligations.NoOperationOpcodes
  intro s
  exact ⟨fun _ _ _ _ _ => completes_skipUnimplemented s 0x04, fun _ _ _ _ _ => completes_skipUnimplemented s 0x19,
    fun _ _ _ _ => completes_skipUnimplemented s 0x07, completes_skipUnimplemented s 0x20,
    fun _ _ _ _ _ => completes_skipUnimplemented s 0x23,
    fun _ op h => (exec_of_mem_unassignedOpcodes h s).symm ▸ completes_skipUnknown s op⟩

end Sys2Proof.Machine

/-! SUPPORT. MOVA and CMP (R165 to R167): the address registers and the conditional codes over the operand pipeline. -/

namespace Sys2Proof.Machine

open Sys2Proof.Claims

/-! ### Completion -/

/-- A result that replaces the executing unit and appends to the log leaves that, and the memory as it was (R130). -/
theorem completes_setCur_log (s : State) (x : ShaderUnit) (l : List Anomaly) :
    Completes (.next { s.setCur x with log := s.log ++ l }) s x l :=
  ⟨_, rfl, rfl, fun a => congrArg (memReadByte · a) (State.guest_setCur s x)⟩

theorem completes_setCur (s : State) (x : ShaderUnit) : Completes (.next (s.setCur x)) s x [] := by
  have h := completes_setCur_log s x []
  rwa [List.append_nil, ← State.log_setCur s x] at h

theorem completes_foldl_raise_setCur (s : State) (x : ShaderUnit) (l : List Anomaly) :
    Completes (.next (l.foldl State.raise (s.setCur x))) s x l := by
  rw [foldl_raise, State.log_setCur]
  exact completes_setCur_log s x l

/-! ### MOVA -/

/-- The write mask is the low four bits of the descriptor, x in bit 3 (R70). -/
theorem getLsbD_descMask (d : Word) (k : Fin 4) : (descMask d).getLsbD (3 - k.val) = enabled d k := by
  have hk : 3 - k.val < 4 := by omega
  unfold descMask field enabled
  rw [BitVec.getLsbD_extractLsb', decide_eq_true hk, Bool.true_and, Nat.zero_add]

/-- Settles O30: MOVA replaces the unit; its mask bits 3 and 2 enable x and y, and its operand is the selected one. -/
theorem movaResult : Obligations.MovaResult := by
  unfold Obligations.MovaResult
  intro idx src1 desc s
  rw [← getLsbD_descMask, ← getLsbD_descMask, ← comp_source1]
  exact completes_setCur s _

/-! ### CMP -/

/-- A code is the comparison of its operator, or as before under the operators without one (R166, R167). -/
theorem codeAfter_newCode (op : CmpOp) (a b : F24) (old : Bool) : CodeAfter op a b old (newCode op a b old) := by
  cases op with
  | eq | ne | lt | le | gt | ge => rfl
  | unassigned6 | unassigned7 => rfl

/-- Operators 6 and 7 are recorded with their number, the six others not at all (R167). -/
theorem badOpRecord_eq (pc : Nat) (op : CmpOp) : badOpRecord pc op =
    if op = .unassigned6 then [.badCompareOp pc 6] else if op = .unassigned7 then [.badCompareOp pc 7] else [] := by
  cases op with
  | eq | ne | lt | le | gt | ge => rfl
  | unassigned6 | unassigned7 => rfl

/-- Settles O31: CMP replaces the two codes and the pc, then records the operator of x and that of y. -/
theorem cmpResult : Obligations.CmpResult := by
  unfold Obligations.CmpResult
  intro cmpx cmpy idx src1 src2 desc s
  rw [← comp_source1, ← comp_source2, ← badOpRecord_eq, ← badOpRecord_eq]
  exact ⟨_, _, completes_foldl_raise_setCur s _ _, codeAfter_newCode cmpx _ _ _, codeAfter_newCode cmpy _ _ _⟩

end Sys2Proof.Machine

/-! SUPPORT. The call stack (43_flow_control.md R171 to R183): the frame check round by round, and what the frame of a
LOOP makes of the arrivals at the end of its body. -/

namespace Sys2Proof.Machine

open Sys2Proof.Claims

section
variable {x : ShaderUnit} {f : Frame} {rest : List Frame}

/-! ### Firing a frame -/

theorem fireFrame_pop (h : f.count = 0) : fireFrame x f rest =
    { x with pc := f.retAddr, al := if f.restoreAL then f.savedAL else x.al + f.inc.setWidth 32, stk := rest } := if_pos h

theorem fireFrame_repeat (h : f.count ≠ 0) : fireFrame x f rest =
    { x with pc := f.loopStart, al := x.al + f.inc.setWidth 32, stk := { f with count := f.count - 1 } :: rest } := if_neg h

/-- Every firing uses fuel, whether it pops or repeats. -/
theorem frameFuel_fireFrame_lt : frameFuel (fireFrame x f rest).stk < frameFuel (f :: rest) := by
  rcases frameFuel_fireFrame x f rest with h | h <;> omega

theorem frameFuel_cons (f : Frame) (rest : List Frame) : frameFuel (f :: rest) = f.count.toNat + 1 + frameFuel rest := rfl

/-! ### Rounds of the frame check -/

theorem frameRounds_of_stk_nil (n : Nat) (h : x.stk = []) : frameRounds n x = x := by
  cases n with
  | zero => rfl
  | succ n => rw [frameRounds_succ, h]

theorem frameRounds_of_pc_ne (n : Nat) (hstk : x.stk = f :: rest) (hpc : x.pc ≠ f.endAddr) : frameRounds n x = x := by
  cases n with
  | zero => rfl
  | succ n => simp only [frameRounds_succ, hstk, if_neg hpc]

theorem frameRounds_succ_of_pc_eq (n : Nat) (hstk : x.stk = f :: rest) (hpc : x.pc = f.endAddr) :
    frameRounds (n + 1) x = frameRounds n (fireFrame x f rest) := by
  simp only [frameRounds_succ, hstk, if_pos hpc]

/-- Rounds beyond the fuel change nothing. -/
theorem frameRounds_eq_of_fuel_le {m n : Nat} (hm : frameFuel x.stk ≤ m) (hn : frameFuel x.stk ≤ n) :
    frameRounds m x = frameRounds n x := by
  induction m generalizing x n with
  | zero =>
    match hstk : x.stk with
    | [] => rw [frameRounds_of_stk_nil _ hstk, frameRounds_of_stk_nil _ hstk]
    | f :: rest => rw [hstk, frameFuel_cons] at hm; omega
  | succ m ih =>
    match hstk : x.stk with
    | [] => rw [frameRounds_of_stk_nil _ hstk, frameRounds_of_stk_nil _ hstk]
    | f :: rest =>
      by_cases hpc : x.pc = f.endAddr
      · have hlt := frameFuel_fireFrame_lt (x := x) (f := f) (rest := rest)
        rw [hstk] at hm hn
        obtain ⟨k, rfl⟩ : ∃ k, n = k + 1 := ⟨n - 1, by omega⟩
        rw [frameRounds_succ_of_pc_eq _ hstk hpc, frameRounds_succ_of_pc_eq _ hstk hpc]
        exact ih (by omega) (by omega)
      · rw [frameRounds_of_pc_ne _ hstk hpc, frameRounds_of_pc_ne _ hstk hpc]

/-! ### The frame check -/

theorem frameCheck_of_stk_nil (h : x.stk = []) : frameCheck x = x := frameRounds_of_stk_nil _ h

theorem frameCheck_of_pc_ne (hstk : x.stk = f :: rest) (hpc : x.pc ≠ f.endAddr) : frameCheck x = x :=
  frameRounds_of_pc_ne _ hstk hpc

/-- At the end address of the top frame the check fires it and checks again (R171). -/
theorem frameCheck_of_pc_eq (hstk : x.stk = f :: rest) (hpc : x.pc = f.endAddr) :
    frameCheck x = frameCheck (fireFrame x f rest) :=
  calc
    frameCheck x = frameRounds (frameFuel x.stk + 1) x := frameRounds_eq_of_fuel_le (Nat.le_refl _) (Nat.le_succ _)
    _ = frameRounds (frameFuel x.stk) (fireFrame x f rest) := frameRounds_succ_of_pc_eq _ hstk hpc
    _ = frameCheck (fireFrame x f rest) :=
      frameRounds_eq_of_fuel_le (hstk ▸ Nat.le_of_lt frameFuel_fireFrame_lt) (Nat.le_refl _)

/-- When the check is done, the top frame does not end at the pc. -/
theorem pc_frameCheck_ne (x : ShaderUnit) (hstk : (frameCheck x).stk = f :: rest) : (frameCheck x).pc ≠ f.endAddr := by
  induction hn : frameFuel x.stk using Nat.strong_induction_on generalizing x with
  | _ n ih =>
    match h : x.stk with
    | [] =>
      rw [frameCheck_of_stk_nil h, h] at hstk
      cases hstk
    | g :: tail =>
      by_cases hpc : x.pc = g.endAddr
      · rw [frameCheck_of_pc_eq h hpc] at hstk ⊢
        exact ih _ (hn ▸ h ▸ frameFuel_fireFrame_lt) _ hstk rfl
      · rw [frameCheck_of_pc_ne h hpc] at hstk ⊢
        obtain ⟨rfl, -⟩ := List.cons.inj (h.symm.trans hstk)
        exact hpc

/-- Frames that end elsewhere leave the check nothing to do. -/
theorem frameCheck_of_forall_ne (h : ∀ g ∈ x.stk, g.endAddr ≠ x.pc) : frameCheck x = x := by
  match hstk : x.stk with
  | [] => exact frameCheck_of_stk_nil hstk
  | g :: tail => exact frameCheck_of_pc_ne hstk (h g (hstk ▸ List.mem_cons_self)).symm

end

/-- Settles O10: the check fires a frame that ends at the pc, as pop or as repeat by its count, and goes on until none
does. -/
theorem frameCheckRule : Obligations.FrameCheckRule := by
  unfold Obligations.FrameCheckRule
  refine ⟨fun _ => frameCheck_of_stk_nil, fun x f rest hstk => ⟨frameCheck_of_pc_ne hstk, ?pop, ?again⟩,
    fun x _ _ => pc_frameCheck_ne x⟩
  case pop =>
    intro hpc hcount
    rw [frameCheck_of_pc_eq hstk hpc, fireFrame_pop hcount]
  case again =>
    intro hpc hcount
    rw [frameCheck_of_pc_eq hstk hpc, fireFrame_repeat hcount]

/-! ### The runs of a LOOP's body -/

/-- The unit at the start of run `j` of the body of the LOOP whose frame is `f`, where `x` is the unit after the LOOP
(R183). -/
def loopRun (x : ShaderUnit) (f : Frame) (rest : List Frame) (j : Nat) : ShaderUnit :=
  { x with
    pc := f.loopStart
    al := x.al + BitVec.ofNat 32 (j * f.inc.toNat)
    stk := { f with count := f.count - BitVec.ofNat 8 j } :: rest }

section
variable {x : ShaderUnit} {f : Frame} {rest : List Frame} {j : Nat}

theorem loopRun_zero (hpc : x.pc = f.loopStart) (hstk : x.stk = f :: rest) : loopRun x f rest 0 = x := by
  simp only [loopRun, Nat.zero_mul, BitVec.add_zero, BitVec.sub_zero]
  rw [← hstk, ← hpc]

/-- One more increment of AL. -/
theorem add_mul_inc (a : Word) (inc : BitVec 8) (j : Nat) :
    a + BitVec.ofNat 32 (j * inc.toNat) + inc.setWidth 32 = a + BitVec.ofNat 32 ((j + 1) * inc.toNat) := by
  rw [BitVec.add_assoc, Nat.succ_mul, BitVec.ofNat_add, BitVec.ofNat_toNat]

/-- An arrival at the end of the body with repeats left starts the next run (R171). -/
theorem bodyEnds_loopRun (hbody : f.loopStart ≠ f.endAddr) (hj : j < f.count.toNat) :
    bodyEnds f.endAddr (loopRun x f rest j) = loopRun x f rest (j + 1) := by
  have hleft : f.count - BitVec.ofNat 8 j ≠ 0 := by bv_omega
  have hcount : f.count - BitVec.ofNat 8 j - 1 = f.count - BitVec.ofNat 8 (j + 1) := by bv_omega
  unfold bodyEnds loopRun
  rw [frameCheck_of_pc_eq rfl rfl, fireFrame_repeat hleft, frameCheck_of_pc_ne rfl hbody]
  dsimp only
  rw [add_mul_inc, hcount]

/-- From the start of the body, every arrival but the last leads to the next run. -/
theorem iterate_bodyEnds (hpc : x.pc = f.loopStart) (hstk : x.stk = f :: rest) (hbody : f.loopStart ≠ f.endAddr)
    (hj : j ≤ f.count.toNat) : (bodyEnds f.endAddr)^[j] x = loopRun x f rest j := by
  induction j with
  | zero => exact (loopRun_zero hpc hstk).symm
  | succ j ih => rw [Function.iterate_succ_apply', ih (Nat.le_of_succ_le hj), bodyEnds_loopRun hbody hj]

/-- The arrival after the last repeat pops the frame, and nothing below it fires (R171). -/
theorem bodyEnds_loopRun_last (hret : f.retAddr = f.endAddr) (hrest : ∀ g ∈ rest, g.endAddr ≠ f.endAddr) :
    bodyEnds f.endAddr (loopRun x f rest f.count.toNat) = { x with
      pc := f.endAddr
      al := if f.restoreAL then f.savedAL else x.al + BitVec.ofNat 32 ((f.count.toNat + 1) * f.inc.toNat)
      stk := rest } := by
  have hdone : f.count - BitVec.ofNat 8 f.count.toNat = 0 := by
    rw [BitVec.ofNat_toNat, BitVec.setWidth_eq, BitVec.sub_self]; rfl
  unfold bodyEnds loopRun
  rw [frameCheck_of_pc_eq rfl rfl, fireFrame_pop hdone]
  dsimp only
  rw [add_mul_inc, hret]
  exact frameCheck_of_forall_ne hrest

end

/-- The start value and a multiple of the increment, in AL's 32 bits. -/
theorem start_add_mul_inc (y z : BitVec 8) (k : Nat) :
    y.setWidth 32 + BitVec.ofNat 32 (k * z.toNat) = BitVec.ofNat 32 (y.toNat + k * z.toNat) := by
  rw [BitVec.ofNat_add, BitVec.ofNat_toNat]

/-- The unit after a LOOP that completes is at the start of the body, with the LOOP's frame on the stack (R183). -/
theorem unit_of_loop {s t : State} {n : Fin 4} {target : BitVec 12} (h : exec (.loop n target) s = .next t) :
    (t.unit s.cur).pc = s.curUnit.pc + 1 ∧ (t.unit s.cur).al = (intY (s.intUniform s.cur n)).setWidth 32 ∧
      (t.unit s.cur).stk = loopFrame s.curUnit (s.intUniform s.cur n) target :: s.curUnit.stk := by
  have hloop : execLoop n target s = .next t := h
  rw [execLoop_eq] at hloop
  split at hloop
  · obtain rfl := Host.Outcome.next.inj hloop
    rw [State.unit_cur_setCur]
    exact ⟨rfl, rfl, rfl⟩
  · cases hloop

/-- Settles O11: the arrivals at the body's end lead through the runs of the body, and the last one pops the frame. -/
theorem loopBodyRunsCountPlusOneTimes : Obligations.LoopBodyRunsCountPlusOneTimes := by
  unfold Obligations.LoopBodyRunsCountPlusOneTimes
  intro s t n target hexec hbody hrest
  obtain ⟨hpc, hal, hstk⟩ := unit_of_loop hexec
  have hrun (j : Nat) (hj : j ≤ (intX (s.intUniform s.cur n)).toNat) :
      (bodyEnds (target.toNat + 1))^[j] (t.unit s.cur) =
        loopRun (t.unit s.cur) (loopFrame s.curUnit (s.intUniform s.cur n) target) s.curUnit.stk j :=
    iterate_bodyEnds hpc hstk (Nat.ne_of_lt (Nat.lt_succ_of_le hbody)) hj
  rw [Function.iterate_succ_apply', hrun _ (Nat.le_refl _),
    show bodyEnds (target.toNat + 1) _ = _ from bodyEnds_loopRun_last rfl hrest, ← start_add_mul_inc, ← hal]
  refine ⟨fun j hj => ?runs, rfl, rfl, ?al⟩
  case runs =>
    rw [hrun j hj, ← start_add_mul_inc, ← hal]
    exact ⟨rfl, rfl⟩
  case al =>
    by_cases hnested : s.curUnit.stk.any (·.isLoop) = true
    · simp only [loopFrame, if_pos hnested]
    · simp only [loopFrame, if_neg hnested]

end Sys2Proof.Machine

/-! SUPPORT. The flow-control instructions (43_flow_control.md R173 to R185): moves of the pc, the condition, and the
pushes of a frame. -/

namespace Sys2Proof.Machine

open Sys2Proof.Claims

/-! ### The pc -/

theorem completes_jump (s : State) (a : Nat) : Completes (.next (s.jump a)) s { s.curUnit with pc := a } [] :=
  completes_setCur s _

theorem completes_advance (s : State) : Completes (.next s.advance) s { s.curUnit with pc := s.curUnit.pc + 1 } [] :=
  completes_jump s _

/-- Settles O33: NOP advances, and END replaces the run state alone. -/
theorem nopEndResult : Obligations.NopEndResult := by
  unfold Obligations.NopEndResult
  exact fun s => ⟨completes_advance s, completes_setCur s _⟩

/-! ### Conditions -/

theorem evalCond_eq_true_iff (x : ShaderUnit) (refx refy : Bool) (cond : CondOp) :
    evalCond x refx refy cond = true ↔ CondHolds x refx refy cond := by
  cases cond with
  | or => simp only [evalCond, CondHolds, Bool.or_eq_true, beq_iff_eq]
  | and => simp only [evalCond, CondHolds, Bool.and_eq_true, beq_iff_eq]
  | justX | justY => simp only [evalCond, CondHolds, beq_iff_eq]

theorem evalCond_eq_false_iff (x : ShaderUnit) (refx refy : Bool) (cond : CondOp) :
    evalCond x refx refy cond = false ↔ ¬ CondHolds x refx refy cond := by
  rw [← evalCond_eq_true_iff, Bool.not_eq_true]

/-! ### Jumps -/

/-- A jump on a condition already evaluated goes to its target or moves on (R184, R185). -/
theorem completes_jumpIf (s : State) (c : Bool) (a : Nat) :
    (c = true → Completes (.next (if c then s.jump a else s.advance)) s { s.curUnit with pc := a } []) ∧
    (c = false → Completes (.next (if c then s.jump a else s.advance)) s { s.curUnit with pc := s.curUnit.pc + 1 } []) := by
  refine ⟨?taken, ?passed⟩
  case taken => rintro rfl; exact completes_jump s a
  case passed => rintro rfl; exact completes_advance s

/-- Settles O37: both are jumps on an evaluated condition, JMPU's being that the uniform is not the inversion bit. -/
theorem jumpResult : Obligations.JumpResult := by
  unfold Obligations.JumpResult
  intro s target
  refine ⟨fun refx refy cond => ?jmpc, fun b invert => ?jmpu⟩
  case jmpc =>
    obtain ⟨htaken, hpassed⟩ := completes_jumpIf s (evalCond s.curUnit refx refy cond) target.toNat
    exact ⟨fun h => htaken ((evalCond_eq_true_iff ..).mpr h), fun h => hpassed ((evalCond_eq_false_iff ..).mpr h)⟩
  case jmpu =>
    obtain ⟨htaken, hpassed⟩ := completes_jumpIf s (s.boolUniform s.cur b == !invert) target.toNat
    exact ⟨fun h => htaken (beq_iff_eq.mpr h), fun h => hpassed (beq_eq_false_iff_ne.mpr (h.trans_ne (by simp)))⟩

/-! ### Pushes -/

/-- A push with room on the stack adds the frame and goes on at its address (R172). -/
theorem completes_pushFrame {s : State} (h : HasRoom s) (f : Frame) (a : Nat) :
    Completes (s.pushFrame f a) s { s.curUnit with stk := f :: s.curUnit.stk, pc := a } [] := by
  rw [(pushFrame_eq_next s _ f a).mpr ⟨h, rfl⟩]
  exact completes_setCur s _

theorem completes_takeCall {s : State} (h : HasRoom s) (target : BitVec 12) (num : BitVec 8) :
    Completes (s.takeCall target num) s (called s.curUnit target num) [] := completes_pushFrame h _ _

theorem takeCall_stops {s : State} (h : ¬ HasRoom s) (target : BitVec 12) (num : BitVec 8) :
    s.takeCall target num = .fault .callStackOverflow := pushFrame_stops s _ _ h

/-- A call on a condition already evaluated (R179, R180). -/
theorem callIf_result (s : State) (c : Bool) (target : BitVec 12) (num : BitVec 8) :
    (c = true → HasRoom s → Completes (if c then s.takeCall target num else .next s.advance) s
      (called s.curUnit target num) []) ∧
    (c = true → ¬ HasRoom s → (if c then s.takeCall target num else .next s.advance) = .fault .callStackOverflow) ∧
    (c = false → Completes (if c then s.takeCall target num else .next s.advance) s
      { s.curUnit with pc := s.curUnit.pc + 1 } []) := by
  refine ⟨?taken, ?full, ?passed⟩
  case taken => rintro rfl h; exact completes_takeCall h target num
  case full => rintro rfl h; exact takeCall_stops h target num
  case passed => rintro rfl; exact completes_advance s

/-- Settles O34: the three calls are one push, CALLC's and CALLU's on an evaluated condition. -/
theorem callResult : Obligations.CallResult := by
  unfold Obligations.CallResult
  intro s target num
  refine ⟨fun h => completes_takeCall h target num, fun h => takeCall_stops h target num,
    fun refx refy cond => ?callc, fun b => callIf_result s (s.boolUniform s.cur b) target num⟩
  obtain ⟨htaken, hfull, hpassed⟩ := callIf_result s (evalCond s.curUnit refx refy cond) target num
  exact ⟨fun h => htaken ((evalCond_eq_true_iff ..).mpr h), fun h => hfull ((evalCond_eq_true_iff ..).mpr h),
    fun h => hpassed ((evalCond_eq_false_iff ..).mpr h)⟩

/-- An IF on a condition already evaluated pushes a frame in both cases (R181). -/
theorem takeIf_result (s : State) (c : Bool) (target : BitVec 12) (num : BitVec 8) :
    (HasRoom s → Completes (s.takeIf c target num) s (branched s.curUnit c target num) []) ∧
    (¬ HasRoom s → s.takeIf c target num = .fault .callStackOverflow) := by
  rw [takeIf_eq]
  exact ⟨fun h => completes_pushFrame h _ _, pushFrame_stops s _ _⟩

/-- Settles O35: IFU and IFC are the same push, on the uniform and on the evaluated condition. -/
theorem ifResult : Obligations.IfResult := by
  unfold Obligations.IfResult
  intro s target num
  refine ⟨fun b => takeIf_result s (s.boolUniform s.cur b) target num, fun refx refy cond c hc => ?_⟩
  have hcond : evalCond s.curUnit refx refy cond = c :=
    Bool.eq_iff_iff.mpr ((evalCond_eq_true_iff ..).trans hc.symm)
  exact hcond ▸ takeIf_result s (evalCond s.curUnit refx refy cond) target num

/-! ### LOOP -/

/-- The bytes of a word put together from four (R13). -/
theorem bytes_append (x y z w : BitVec 8) :
    intX (w ++ z ++ y ++ x) = x ∧ intY (w ++ z ++ y ++ x) = y ∧ intZ (w ++ z ++ y ++ x) = z := by
  have hw : (w ++ z ++ y ++ x).toNat = ((w.toNat * 2 ^ 8 + z.toNat) * 2 ^ 8 + y.toNat) * 2 ^ 8 + x.toNat := by
    simp only [toNat_append_eq_add]
  have hfield (lo : Nat) (b : BitVec 8) (h : (w ++ z ++ y ++ x).toNat / 2 ^ lo % 2 ^ 8 = b.toNat) :
      field (w ++ z ++ y ++ x) lo 8 = b := BitVec.eq_of_toNat_eq ((toNat_field _ lo 8).trans h)
  exact ⟨hfield 0 x (by omega), hfield 8 y (by omega), hfield 16 z (by omega)⟩

/-- Settles O36: LOOP replaces the unit, its frame made of the three bytes of the uniform it reads. -/
theorem loopResult : Obligations.LoopResult := by
  unfold Obligations.LoopResult
  intro s n target x y z w hword
  obtain ⟨hx, hy, hz⟩ := bytes_append x y z w
  have hexec : exec (.loop n target) s = execLoop n target s := rfl
  rw [hexec, execLoop_eq]
  refine ⟨fun h => ?room, fun h => if_neg h⟩
  rw [if_pos (show s.curUnit.stk.length < Config.callStackDepth from h)]
  unfold loopFrame State.intUniform
  rw [hword, hx, hy, hz, ← BitVec.ofNat_toNat]
  exact completes_setCur s _

end Sys2Proof.Machine

/-! SUPPORT. The step, case by case (43_flow_control.md R170): the running unit's fetch, and with both units idle the
next act of the rest of the block. -/

namespace Sys2Proof.Machine

/-! ### The running unit -/

/-- The word that the bytes of a word decode as is that word (R42, R60). -/
theorem decode_wordBytes (w : Word) : decode (wordBytes w) = .ok (decodeWord w, []) :=
  congrArg (fun v => Except.ok (decodeWord v, [])) (wordOfBytes_fields w)

theorem runUnit_of_fetch {s : State} {w : Word} (h : s.frameChecked.fetch = some w) :
    runUnit s = exec (decodeWord w) s.frameChecked := by
  unfold runUnit; rw [h]

theorem runUnit_of_fetch_none {s : State} (h : s.frameChecked.fetch = none) :
    runUnit s = .fault (.fetchOutOfRange s.frameChecked.cur s.frameChecked.curUnit.pc) := by
  unfold runUnit; rw [h]

/-! ### Both units idle -/

section
variable {s : State} (hgs : s.gs.run = .idle) (hvs : s.vs.run = .idle)
include hgs hvs

theorem step_of_idle : step s = s.blockStep :=
  step_inactive s (hgs ▸ nofun) (.inr (hvs ▸ nofun))

theorem step_of_vout {e : VoutEntry} {rest : List VoutEntry} (hvout : s.vout = e :: rest) :
    step s = .next ({ s with vout := rest }.paConsume e) := by
  rw [step_of_idle hgs hvs]
  simp only [State.blockStep, hgs, hvs, hvout, reduceCtorEq, if_false]

theorem step_of_draw {d : DrawWalk} (hvout : s.vout = []) (hdraw : s.draw = some d) : step s = s.drawNext d := by
  rw [step_of_idle hgs hvs]
  simp only [State.blockStep, hgs, hvs, hvout, hdraw, reduceCtorEq, if_false]

theorem step_of_list {c : CmdWalk} (hvout : s.vout = []) (hdraw : s.draw = none) (hcl : s.cl = some c) :
    step s = s.listNext c := by
  rw [step_of_idle hgs hvs]
  simp only [State.blockStep, hgs, hvs, hvout, hdraw, hcl, reduceCtorEq, if_false]

theorem step_of_hostCall {address size : Nat} {rest : List (Nat × Nat)} (hvout : s.vout = []) (hdraw : s.draw = none)
    (hcl : s.cl = none) (hcalls : s.hostCalls = (address, size) :: rest) :
    step s = { s with hostCalls := rest }.startList address size := by
  rw [step_of_idle hgs hvs]
  simp only [State.blockStep, hgs, hvs, hvout, hdraw, hcl, hcalls, reduceCtorEq, if_false]

theorem step_of_nothing_pending (hvout : s.vout = []) (hdraw : s.draw = none) (hcl : s.cl = none)
    (hcalls : s.hostCalls = []) : step s = .next s := by
  rw [step_of_idle hgs hvs]
  simp only [State.blockStep, hgs, hvs, hvout, hdraw, hcl, hcalls, reduceCtorEq, if_false]

end

theorem startList_aligned (s : State) {address size : Nat} (ha : address % 8 = 0) (hs : size % 8 = 0) :
    s.startList address size = .next { s with cl := some ⟨address, size / 4, 0, none⟩ } := if_pos ⟨ha, hs⟩

theorem startList_misaligned (s : State) {address size : Nat} (h : address % 8 ≠ 0 ∨ size % 8 ≠ 0) :
    s.startList address size = .refused .listMisaligned := if_neg fun ⟨ha, hs⟩ => h.elim (· ha) (· hs)

/-- Settles O5: a running unit executes the instruction its word decodes to, or stops where the fetch does; the idle
block takes the first act that is pending. -/
theorem stepRunsDecodedInstruction : Obligations.StepRunsDecodedInstruction := by
  unfold Obligations.StepRunsDecodedInstruction
  refine ⟨fun s hrun => ⟨rfl, fun w i hfetch hdecode _ => ?executes, fun hfetch => ?stops⟩, fun s hgs hvs => ?idle⟩
  case executes =>
    rw [decode_wordBytes] at hdecode
    obtain ⟨rfl, -⟩ := Prod.mk.inj (Except.ok.inj hdecode)
    exact (step_active s hrun).trans (runUnit_of_fetch hfetch)
  case stops => exact (step_active s hrun).trans (runUnit_of_fetch_none hfetch)
  case idle =>
    refine ⟨fun _ _ => step_of_vout hgs hvs, fun hvout _ => step_of_draw hgs hvs hvout,
      fun hvout hdraw _ => step_of_list hgs hvs hvout hdraw, fun hvout hdraw hcl address size rest hcalls => ?call,
      step_of_nothing_pending hgs hvs⟩
    rw [step_of_hostCall hgs hvs hvout hdraw hcl hcalls]
    exact ⟨startList_aligned _, startList_misaligned _⟩

end Sys2Proof.Machine

/-! SUPPORT. The geometry emitter (44_geometry_emit.md R195 to R200): what SETEMIT and EMIT answer on each unit and for
each slot. -/

namespace Sys2Proof.Machine

/-! ### The refusals -/

section
variable {s : State}

theorem execSetemit_of_vs (hcur : s.cur = .vs) (v : BitVec 2) (p w : Bool) :
    execSetemit v p w s = .refused .emitterAbsent := if_neg (hcur ▸ nofun)

theorem execEmit_of_vs (hcur : s.cur = .vs) : execEmit s = .refused .emitterAbsent := if_neg (hcur ▸ nofun)

theorem execEmit_of_slot_three (hcur : s.cur = .gs) (hslot : s.em.vertexId = 3) :
    execEmit s = .refused .emitSlotOutOfRange := by
  have hno : ¬ s.em.vertexId.toNat < 3 := by rw [hslot]; decide
  unfold execEmit
  rw [if_pos hcur, dif_neg hno]

end

/-- Settles O39: no emitter on the vertex unit, no slot 3 on the geometry unit. -/
theorem emitterRefusals : Obligations.EmitterRefusals := by
  unfold Obligations.EmitterRefusals
  exact fun s => ⟨fun hcur => ⟨execEmit_of_vs hcur, execSetemit_of_vs hcur⟩, execEmit_of_slot_three⟩

/-! ### The emitter on the geometry unit -/

section
variable {s : State} (hcur : s.cur = .gs)
include hcur

theorem curUnit_of_gs : s.curUnit = s.gs := congrArg s.unit hcur

/-- SETEMIT keeps the slots and pushes nothing (R196). -/
theorem execSetemit_of_gs (v : BitVec 2) (p w : Bool) :
    execSetemit v p w s = .next { s with
      em := { vertexId := v, primEmit := p, winding := w, buf := s.em.buf }
      gs := { s.gs with pc := s.gs.pc + 1 } } := by
  have hadv := emitter_advance { s.em with vertexId := v, primEmit := p, winding := w } [] hcur
  rw [List.append_nil] at hadv
  unfold execSetemit
  rw [if_pos hcur, hadv]

/-- EMIT copies the output registers into the slot and pushes the emitter as it then is (R197 to R199). -/
theorem execEmit_of_gs (hslot : s.em.vertexId.toNat < 3) :
    execEmit s = .next { s with
      em := { s.em with buf := s.em.buf.set s.em.vertexId.toNat s.gs.o hslot }
      gs := { s.gs with pc := s.gs.pc + 1 }
      vout := s.vout ++ (if s.em.primEmit then
        emitEntries { s.em with buf := s.em.buf.set s.em.vertexId.toNat s.gs.o hslot } (s.outMask .gs) else []) } := by
  unfold execEmit
  rw [if_pos hcur, dif_pos hslot, curUnit_of_gs hcur]
  exact congrArg Host.Outcome.next (emitter_advance _ _ hcur)

end

/-- A slot other than 3 is one of the emitter's three (R195). -/
theorem slot_lt_three {v : BitVec 2} (h : v ≠ 3) : v.toNat < 3 := by bv_omega

/-- Settles O38: both instructions answer outright, and EMIT's slots are the old ones with one set. -/
theorem emitterResult : Obligations.EmitterResult := by
  unfold Obligations.EmitterResult
  intro s hcur
  refine ⟨fun v p w => ⟨_, execSetemit_of_gs hcur v p w, rfl, fun _ => rfl⟩, fun hslot => ?emit⟩
  have hlt := slot_lt_three hslot
  refine ⟨_, s.em.buf.set s.em.vertexId.toNat s.gs.o hlt, execEmit_of_gs hcur hlt, fun j => ?slots, rfl, fun _ => rfl⟩
  case slots => simp only [Fin.getElem_fin, Vector.getElem_set, @eq_comm Nat j.val]

end Sys2Proof.Machine

/-! SUPPORT. Starting an invocation and loading its inputs (45_geometry_pipeline.md R205, R206), and the output stages
(R208, R209). -/

namespace Sys2Proof.Machine

open Sys2Proof.Claims

/-! ### The invocation start -/

theorem unit_startUnit_same (s : State) (u : UnitId) : (s.startUnit u).unit u = { s.unit u with
    pc := s.entry u, a0x := 0, a0y := 0, al := 0, ccx := false, ccy := false, stk := [], run := .running,
    r := freeRegs s.fresh, o := freeRegs (s.fresh + 64) } := by
  cases u <;> rfl

/-- The start replaces the unit and moves the free-value counter on. -/
theorem startUnit_eq_setUnit (s : State) (u : UnitId) :
    s.startUnit u = { s.setUnit u ((s.startUnit u).unit u) with fresh := (s.startUnit u).fresh } := by
  cases u <;> rfl

/-- Settles O44: the started unit is its equation above, with `entry` the low half of its register. -/
theorem invocationStart : Obligations.InvocationStart := by
  unfold Obligations.InvocationStart
  exact fun s u => ⟨_, _, unit_startUnit_same s u, startUnit_eq_setUnit s u⟩

/-! ### `LoadInput` -/

/-- One round of `LoadInput` (R206): element `i` of `a`, if it is loaded, goes to its register. -/
def loadAttribute (a : Vector Vec4 16) (map : Fin 16 → Fin 16) (n : Nat) (v : Vector Vec4 16) (i : Fin 16) :
    Vector Vec4 16 :=
  if i.val < n then v.set (map i).val a[i] (map i).isLt else v

theorem loadInput_eq_foldl (v a : Vector Vec4 16) (map : Fin 16 → Fin 16) (n : Nat) :
    loadInput v a map n = (List.finRange 16).foldl (loadAttribute a map n) v := rfl

section
variable {a : Vector Vec4 16} {map : Fin 16 → Fin 16} {n : Nat} (v : Vector Vec4 16)

theorem loadAttribute_same {i : Fin 16} (hi : i.val < n) : (loadAttribute a map n v i)[map i] = a[i] := by
  unfold loadAttribute
  rw [if_pos hi, Fin.getElem_fin, Vector.getElem_set_self]

theorem loadAttribute_other {i r : Fin 16} (h : i.val < n → map i ≠ r) : (loadAttribute a map n v i)[r] = v[r] := by
  unfold loadAttribute
  split
  · next hi => exact Vector.getElem_set_ne _ _ fun e => h hi (Fin.ext e)
  · rfl

/-- Rounds that do not load into a register leave it as it is. -/
theorem foldl_loadAttribute_other {r : Fin 16} (l : List (Fin 16)) (h : ∀ i ∈ l, i.val < n → map i ≠ r) :
    (l.foldl (loadAttribute a map n) v)[r] = v[r] := by
  induction l generalizing v with
  | nil => rfl
  | cons i l ih =>
    rw [List.foldl_cons, ih _ fun j hj => h j (List.mem_cons_of_mem i hj), loadAttribute_other v (h i List.mem_cons_self)]

end

/-- Settles O45: after the last round that loads a register, no round changes it. -/
theorem loadInputRule : Obligations.LoadInputRule := by
  unfold Obligations.LoadInputRule
  intro v a map n
  refine ⟨fun i hi hlast => ?last, fun r h => foldl_loadAttribute_other v _ fun i _ => h i⟩
  case last =>
    obtain ⟨before, after, hsplit⟩ := List.append_of_mem (List.mem_finRange i)
    have hsorted := List.pairwise_lt_finRange 16
    rw [hsplit, List.pairwise_append] at hsorted
    obtain ⟨-, hcons, -⟩ := hsorted
    have hafter : ∀ j ∈ after, j.val < n → map j ≠ map i := fun j hj => hlast j (List.rel_of_pairwise_cons hcons hj)
    rw [loadInput_eq_foldl, hsplit, List.foldl_append, List.foldl_cons, foldl_loadAttribute_other _ after hafter,
      loadAttribute_same _ hi]

/-! ### The output stages -/

/-- `Pack` keeps the enabled registers in ascending order (R208). -/
theorem packRegs_eq_map_filter (regs : Vector Vec4 16) (mask : BitVec 16) :
    packRegs regs mask = ((List.finRange 16).filter fun r => mask.getLsbD r.val).map fun r => regs[r] := by
  rw [← List.filterMap_eq_map', List.filterMap_filter]
  rfl

theorem getLsbD_outMask (s : State) (u : UnitId) (b : Fin 16) :
    (s.outMask u).getLsbD b.val = (s.hregRead (regOutMask u)).getLsbD b.val := by
  unfold State.outMask field
  rw [BitVec.getLsbD_extractLsb', decide_eq_true b.isLt, Bool.true_and, Nat.zero_add]

theorem step_of_vs_halted {s : State} (hvs : s.vs.run = .halted) (hgs : s.gs.run = .idle) :
    step s = s.vsOutputStage := by
  rw [step_inactive s (hgs ▸ nofun) (.inr (hvs ▸ nofun)), State.blockStep, if_neg (hgs ▸ nofun), if_pos hvs]

theorem step_of_gs_halted {s : State} (hgs : s.gs.run = .halted) : step s = s.gsOutputStage := by
  rw [step_inactive s (hgs ▸ nofun) (.inl hgs), State.blockStep, if_pos hgs]

theorem gpSubmitVertex_passthrough {s : State} (hgp : s.gp = .passthrough) (A : Vertex) :
    s.gpSubmitVertex A = .next { s with vout := s.vout ++ [.vertex A] } := by
  unfold State.gpSubmitVertex
  rw [hgp]

/-- Settles O46: the step is the output stage, whose vertex is the packed outputs; Passthrough pushes it. -/
theorem vsOutputStagePassthrough : Obligations.VsOutputStagePassthrough := by
  unfold Obligations.VsOutputStagePassthrough
  intro s hvs hgs
  have hstep := step_of_vs_halted hvs hgs
  refine ⟨packRegs s.vs.o (s.outMask .vs), ?packed, hstep, fun hgp => hstep.trans ?pushed⟩
  case packed => simp only [packRegs_eq_map_filter, getLsbD_outMask]
  case pushed => exact gpSubmitVertex_passthrough (s := { s with vs := { s.vs with run := .idle } }) hgp _

/-- Bit 15 alone is set by the mask of the GS output stage (R209). -/
theorem getLsbD_or_bit15 (w : Word) (b : Fin 16) :
    (w ||| 0x8000#32).getLsbD b.val = (w.getLsbD b.val || decide (b = 15)) := by
  have hmask : ∀ b : Fin 16, (0x8000#32).getLsbD b.val = decide (b = 15) := by decide
  rw [BitVec.getLsbD_or, hmask]

/-- The register write of the GS output stage sets b15 and keeps the other boolean uniforms (R209, R252). -/
theorem boolUniform_set_b15 {s : State} (h : HregCanonical s.hreg) (u : UnitId) (b : Fin 16) :
    (s.hregWrite (regBuni u) (s.hregRead (regBuni u) ||| 0x8000#32)).boolUniform u b =
      (s.boolUniform u b || decide (b = 15)) := by
  unfold State.boolUniform flagAt
  rw [hregRead_hregWrite_same s _ _ h, getLsbD_or_bit15]

/-- Settles O47: the stage writes one host register, and that write sets b15 alone. -/
theorem gsOutputStage : Obligations.GsOutputStage := by
  unfold Obligations.GsOutputStage
  intro s hgs hcanon
  have hbool := boolUniform_set_b15 (s := { s with gs := { s.gs with run := .idle } }) hcanon .gs
  refine ⟨_, step_of_gs_halted hgs, rfl, (hbool 15).trans (Bool.or_true _), fun b hb => (hbool b).trans ?others,
    fun k hk => hregRead_hregWrite_other _ _ k _ hk⟩
  case others => exact (congrArg (s.boolUniform .gs b || ·) (decide_eq_false hb)).trans (Bool.or_false _)

end Sys2Proof.Machine

/-! SUPPORT. The primitive assembler (45_geometry_pipeline.md R228 to R234): the triangles of a stream of FIFO entries
under one topology, as a function of the assembler and the stream. -/

namespace Sys2Proof.Machine

open Sys2Proof.Claims

/-! ### Streams -/

/-- The triangles that an assembler with the submission rule `submit` puts out for a stream of entries (R228). -/
def assembledTriangles (submit : Assembler → Vertex → Assembler × List Triangle) :
    Assembler → List VoutEntry → List Triangle
  | _, [] => []
  | q, .windingMarker :: es => assembledTriangles submit { q with winding := true } es
  | q, .vertex a :: es => (submit q a).2 ++ assembledTriangles submit (submit q a).1 es

section
variable (submit : Assembler → Vertex → Assembler × List Triangle) (q : Assembler) (es : List VoutEntry)

theorem assembledTriangles_marker :
    assembledTriangles submit q (.windingMarker :: es) = assembledTriangles submit { q with winding := true } es := rfl

theorem assembledTriangles_vertex (a : Vertex) : assembledTriangles submit q (.vertex a :: es) =
    (submit q a).2 ++ assembledTriangles submit (submit q a).1 es := rfl

/-- The next vertex, once what the rule answers for it is known. -/
theorem assembledTriangles_of_submit {submit} {q r : Assembler} {a : Vertex} {ts : List Triangle}
    (h : submit q a = (r, ts)) (es : List VoutEntry) :
    assembledTriangles submit q (.vertex a :: es) = ts ++ assembledTriangles submit r es := by
  rw [assembledTriangles_vertex, h]

end

theorem paSubmit_of_submitTopology {s : State} {value : Nat} {a : Vertex} {x : Assembler × List Triangle}
    (h : submitTopology value s.pa a = some x) : s.paSubmit value a = { s with pa := x.1, tri := s.tri ++ x.2 } := by
  unfold State.paSubmit
  rw [h]

/-- Where `submit` is the rule of the topology in the configuration, consuming a stream appends its triangles. -/
theorem tri_consumeAll {submit : Assembler → Vertex → Assembler × List Triangle} (es : List VoutEntry) (s : State)
    (h : ∀ q a, submitTopology s.topology q a = some (submit q a)) :
    (consumeAll s es).tri = s.tri ++ assembledTriangles submit s.pa es := by
  induction es generalizing s with
  | nil => exact (List.append_nil _).symm
  | cons e es ih =>
    cases e with
    | windingMarker => exact ih { s with pa := { s.pa with winding := true } } h
    | vertex a =>
      have hconsume : s.paConsume (.vertex a) =
          { s with pa := (submit s.pa a).1, tri := s.tri ++ (submit s.pa a).2 } := by
        show s.paSubmit s.topology a = _
        exact paSubmit_of_submitTopology (h s.pa a)
      have hrest := ih { s with pa := (submit s.pa a).1, tri := s.tri ++ (submit s.pa a).2 } h
      calc (consumeAll s (.vertex a :: es)).tri = (consumeAll (s.paConsume (.vertex a)) es).tri := rfl
        _ = s.tri ++ (submit s.pa a).2 ++ assembledTriangles submit (submit s.pa a).1 es := by rw [hconsume, hrest]
        _ = s.tri ++ assembledTriangles submit s.pa (.vertex a :: es) := List.append_assoc ..

/-! ### One submission -/

section
variable {q : Assembler} {a : Vertex}

theorem put_of_idx_zero (h : q.idx = 0) : q.put a = { q with buf0 := a } := if_pos h

theorem put_of_idx_one (h : q.idx = 1) : q.put a = { q with buf1 := a } :=
  (if_neg (h ▸ Nat.one_ne_zero)).trans (if_pos h)

/-- List buffers the first two vertices (R229). -/
theorem submitList_of_idx_lt_two (h : q.idx < 2) : submitList q a = ({ q.put a with idx := q.idx + 1 }, []) := if_pos h

theorem submitList_of_idx_zero (h : q.idx = 0) : submitList q a = ({ q with buf0 := a, idx := 1 }, []) := by
  rw [submitList_of_idx_lt_two (by omega), put_of_idx_zero h, h]

theorem submitList_of_idx_one (h : q.idx = 1) : submitList q a = ({ q with buf1 := a, idx := 2 }, []) := by
  rw [submitList_of_idx_lt_two (by omega), put_of_idx_one h, h]

theorem submitList_of_idx_two (h : q.idx = 2) : submitList q a = ({ q with idx := 0 }, [⟨q.buf0, q.buf1, a⟩]) :=
  if_neg (by omega)

theorem readyTriangle_of_ready (h : q.stripReady = true) : readyTriangle q a = [⟨q.buf0, q.buf1, a⟩] := if_pos h

theorem readyTriangle_of_not_ready (h : q.stripReady = false) : readyTriangle q a = [] := if_neg (h ▸ nofun)

theorem submitStrip_eq : submitStrip q a =
    ({ q.put a with stripReady := q.stripReady || decide (q.idx = 1), idx := 1 - q.idx }, readyTriangle q a) := rfl

theorem submitFan_eq : submitFan q a =
    ({ q.put a with stripReady := q.stripReady || decide (q.idx = 1), idx := 1 }, readyTriangle q a) := rfl

theorem submitStrip_of_idx_zero (h : q.idx = 0) :
    submitStrip q a = ({ q with buf0 := a, idx := 1 }, readyTriangle q a) := by
  rw [submitStrip_eq, put_of_idx_zero h, h, decide_eq_false Nat.zero_ne_one, Bool.or_false]

theorem submitStrip_of_idx_one (h : q.idx = 1) :
    submitStrip q a = ({ q with buf1 := a, idx := 0, stripReady := true }, readyTriangle q a) := by
  rw [submitStrip_eq, put_of_idx_one h, h, decide_eq_true rfl, Bool.or_true]

theorem submitFan_of_idx_zero (h : q.idx = 0) :
    submitFan q a = ({ q with buf0 := a, idx := 1 }, readyTriangle q a) := by
  rw [submitFan_eq, put_of_idx_zero h, h, decide_eq_false Nat.zero_ne_one, Bool.or_false]

theorem submitFan_of_idx_one (h : q.idx = 1) :
    submitFan q a = ({ q with buf1 := a, idx := 1, stripReady := true }, readyTriangle q a) := by
  rw [submitFan_eq, put_of_idx_one h, h, decide_eq_true rfl, Bool.or_true]

/-- Before the third vertex the Shader topology buffers as List does (R232). -/
theorem submitShader_of_idx_lt_two (h : q.idx < 2) : submitShader q a = submitList q a :=
  (if_pos h).trans (submitList_of_idx_lt_two h).symm

theorem submitShader_of_idx_zero (h : q.idx = 0) : submitShader q a = ({ q with buf0 := a, idx := 1 }, []) :=
  (submitShader_of_idx_lt_two (by omega)).trans (submitList_of_idx_zero h)

theorem submitShader_of_idx_one (h : q.idx = 1) : submitShader q a = ({ q with buf1 := a, idx := 2 }, []) :=
  (submitShader_of_idx_lt_two (by omega)).trans (submitList_of_idx_one h)

/-- The third vertex completes the triangle and takes the winding back (R232). -/
theorem submitShader_of_idx_two (h : q.idx = 2) : submitShader q a =
    ({ q with idx := 0, winding := false },
      [if q.winding then ⟨q.buf1, q.buf0, a⟩ else ⟨q.buf0, q.buf1, a⟩]) := by
  have hfull : ¬ q.idx < 2 := by omega
  refine (if_neg hfull).trans ?_
  obtain ⟨_, _, _, _, winding⟩ := q
  cases winding <;> rfl

end

/-! ### List, Strip and Fan -/

/-- Three vertices under List: their triangle, and none is left (R229). -/
theorem assembledTriangles_list_three {q : Assembler} (h : q.idx = 0) (a b c : Vertex) (es : List VoutEntry) :
    assembledTriangles submitList q (.vertex a :: .vertex b :: .vertex c :: es) =
      ⟨a, b, c⟩ :: assembledTriangles submitList { q with buf0 := a, buf1 := b, idx := 0 } es := by
  rw [assembledTriangles_of_submit (submitList_of_idx_zero h), assembledTriangles_of_submit (submitList_of_idx_one rfl),
    assembledTriangles_of_submit (submitList_of_idx_two rfl)]
  rfl

theorem assembledTriangles_list (q : Assembler) (h : q.idx = 0) :
    ∀ vs : List Vertex, assembledTriangles submitList q (vs.map .vertex) = listTriangles vs
  | [] => rfl
  | [a] => by
    rw [List.map_singleton, assembledTriangles_of_submit (submitList_of_idx_zero h)]
    rfl
  | [a, b] => by
    rw [List.map_cons, List.map_singleton, assembledTriangles_of_submit (submitList_of_idx_zero h),
      assembledTriangles_of_submit (submitList_of_idx_one rfl)]
    rfl
  | a :: b :: c :: rest =>
    (assembledTriangles_list_three h a b c (rest.map .vertex)).trans
      (congrArg (⟨a, b, c⟩ :: ·) (assembledTriangles_list { q with buf0 := a, buf1 := b, idx := 0 } rfl rest))

/-- A strip with two vertices buffered, the next one going to slot 0 when `even` (R230). -/
theorem assembledTriangles_stripReady (vs : List Vertex) (q : Assembler) (even : Bool) (hready : q.stripReady = true)
    (hidx : q.idx = if even then 0 else 1) :
    assembledTriangles submitStrip q (vs.map .vertex) = stripTriangles even q.buf0 q.buf1 vs := by
  induction vs generalizing q even with
  | nil => rfl
  | cons c rest ih =>
    cases even with
    | true =>
      rw [List.map_cons, assembledTriangles_of_submit (submitStrip_of_idx_zero hidx), readyTriangle_of_ready hready,
        ih { q with buf0 := c, idx := 1 } false hready rfl]
      rfl
    | false =>
      rw [List.map_cons, assembledTriangles_of_submit (submitStrip_of_idx_one hidx), readyTriangle_of_ready hready,
        ih { q with buf1 := c, idx := 0, stripReady := true } true rfl rfl]
      rfl

theorem assembledTriangles_strip (q : Assembler) (hidx : q.idx = 0) (hready : q.stripReady = false) (vs : List Vertex) :
    assembledTriangles submitStrip q (vs.map .vertex) = stripOf vs := by
  match vs with
  | [] => rfl
  | [a] =>
    rw [List.map_singleton, assembledTriangles_of_submit (submitStrip_of_idx_zero hidx), readyTriangle_of_not_ready hready]
    rfl
  | a :: b :: rest =>
    rw [List.map_cons, List.map_cons, assembledTriangles_of_submit (submitStrip_of_idx_zero hidx),
      assembledTriangles_of_submit (submitStrip_of_idx_one rfl), readyTriangle_of_not_ready hready,
      readyTriangle_of_not_ready (q := { q with buf0 := a, idx := 1 }) hready]
    exact assembledTriangles_stripReady rest
      { q with buf0 := a, buf1 := b, idx := 0, stripReady := true } true rfl rfl

/-- A fan with two vertices buffered keeps the first (R231). -/
theorem assembledTriangles_fanReady (vs : List Vertex) (q : Assembler) (hready : q.stripReady = true) (hidx : q.idx = 1) :
    assembledTriangles submitFan q (vs.map .vertex) = fanTriangles q.buf0 (q.buf1 :: vs) := by
  induction vs generalizing q with
  | nil => rfl
  | cons c rest ih =>
    rw [List.map_cons, assembledTriangles_of_submit (submitFan_of_idx_one hidx), readyTriangle_of_ready hready,
      ih { q with buf1 := c, idx := 1, stripReady := true } rfl rfl]
    rfl

theorem assembledTriangles_fan (q : Assembler) (hidx : q.idx = 0) (hready : q.stripReady = false) (vs : List Vertex) :
    assembledTriangles submitFan q (vs.map .vertex) = fanOf vs := by
  match vs with
  | [] => rfl
  | [a] =>
    rw [List.map_singleton, assembledTriangles_of_submit (submitFan_of_idx_zero hidx), readyTriangle_of_not_ready hready]
    rfl
  | a :: b :: rest =>
    rw [List.map_cons, List.map_cons, assembledTriangles_of_submit (submitFan_of_idx_zero hidx),
      assembledTriangles_of_submit (submitFan_of_idx_one rfl), readyTriangle_of_not_ready hready,
      readyTriangle_of_not_ready (q := { q with buf0 := a, idx := 1 }) hready]
    exact assembledTriangles_fanReady rest { q with buf0 := a, buf1 := b, idx := 1, stripReady := true } rfl rfl

/-- Settles O52: each topology's submission rule, followed along the stream. -/
theorem listStripFanTriangles : Obligations.ListStripFanTriangles := by
  unfold Obligations.ListStripFanTriangles
  intro s hidx hready
  refine ⟨fun htop vs => ?list, fun htop vs => ?strip, fun htop vs => ?fan⟩
  case list => rw [tri_consumeAll _ s fun _ _ => by rw [htop]; rfl, assembledTriangles_list _ hidx]
  case strip => rw [tri_consumeAll _ s fun _ _ => by rw [htop]; rfl, assembledTriangles_strip _ hidx hready]
  case fan => rw [tri_consumeAll _ s fun _ _ => by rw [htop]; rfl, assembledTriangles_fan _ hidx hready]

/-! ### Shader -/

/-- Three vertices into an assembler that holds none: their triangle, wound as the assembler says, which then holds none
and has no winding (R232). -/
theorem assembledTriangles_shader_three {q : Assembler} (h : q.idx = 0) (a b c : Vertex) (es : List VoutEntry) :
    assembledTriangles submitShader q (.vertex a :: .vertex b :: .vertex c :: es) =
      (if q.winding then ⟨b, a, c⟩ else ⟨a, b, c⟩) ::
        assembledTriangles submitShader { q with buf0 := a, buf1 := b, idx := 0, winding := false } es := by
  rw [assembledTriangles_of_submit (submitShader_of_idx_zero h), assembledTriangles_of_submit (submitShader_of_idx_one rfl),
    assembledTriangles_of_submit (submitShader_of_idx_two rfl)]
  rfl

/-- A marker behind one of the first two vertices acts as the marker before it does (R228, R232). -/
theorem assembledTriangles_shader_marker {q : Assembler} (h : q.idx < 2) (a : Vertex) (es : List VoutEntry) :
    assembledTriangles submitShader q (.vertex a :: .windingMarker :: es) =
      assembledTriangles submitShader q (.windingMarker :: .vertex a :: es) := by
  have hidx : q.idx = 0 ∨ q.idx = 1 := by omega
  rcases hidx with hidx | hidx
  · rw [assembledTriangles_of_submit (submitShader_of_idx_zero hidx), assembledTriangles_marker, assembledTriangles_marker,
      assembledTriangles_of_submit (submitShader_of_idx_zero (q := { q with winding := true }) hidx)]
  · rw [assembledTriangles_of_submit (submitShader_of_idx_one hidx), assembledTriangles_marker, assembledTriangles_marker,
      assembledTriangles_of_submit (submitShader_of_idx_one (q := { q with winding := true }) hidx)]

/-- Wherever the marker comes before the third vertex, it swaps the first two of this triangle alone (R228, R232). -/
theorem assembledTriangles_shader_marked {q : Assembler} (h : q.idx = 0) {a b c : Vertex} {es : List VoutEntry}
    (hes : es = [.windingMarker, .vertex a, .vertex b, .vertex c] ∨
      es = [.vertex a, .windingMarker, .vertex b, .vertex c] ∨
      es = [.vertex a, .vertex b, .windingMarker, .vertex c]) (rest : List VoutEntry) :
    assembledTriangles submitShader q (es ++ rest) =
      ⟨b, a, c⟩ :: assembledTriangles submitShader { q with buf0 := a, buf1 := b, idx := 0, winding := false } rest := by
  have hfirst : assembledTriangles submitShader q (.windingMarker :: .vertex a :: .vertex b :: .vertex c :: rest) =
      ⟨b, a, c⟩ :: assembledTriangles submitShader { q with buf0 := a, buf1 := b, idx := 0, winding := false } rest :=
    assembledTriangles_shader_three (q := { q with winding := true }) h a b c rest
  have hsecond := (assembledTriangles_shader_marker (h ▸ Nat.zero_lt_two) a (.vertex b :: .vertex c :: rest)).trans hfirst
  have hbuffered : (submitShader q a).1.idx < 2 := by
    rw [submitShader_of_idx_zero h]
    exact Nat.one_lt_two
  have hthird : assembledTriangles submitShader q (.vertex a :: .vertex b :: .windingMarker :: .vertex c :: rest) =
      assembledTriangles submitShader q (.vertex a :: .windingMarker :: .vertex b :: .vertex c :: rest) :=
    congrArg ((submitShader q a).2 ++ ·) (assembledTriangles_shader_marker hbuffered b (.vertex c :: rest))
  rcases hes with rfl | rfl | rfl
  · exact hfirst
  · exact hsecond
  · exact hthird.trans hsecond

/-- Settles O53: the unmarked triangle, then the marked one and what follows it. -/
theorem shaderTopologyWinding : Obligations.ShaderTopologyWinding := by
  unfold Obligations.ShaderTopologyWinding
  intro s htop hidx hwinding a b c d e f
  have hstream (es : List VoutEntry) := tri_consumeAll (submit := submitShader) es s fun _ _ => by rw [htop]; rfl
  refine ⟨?unmarked, fun es hes => ?marked⟩
  case unmarked =>
    rw [hstream, assembledTriangles_shader_three hidx, hwinding]
    rfl
  case marked =>
    have hmarked := assembledTriangles_shader_marked hidx hes
    refine ⟨?triangle, ?following⟩
    case triangle =>
      rw [hstream, ← List.append_nil es, hmarked]
      rfl
    case following =>
      rw [hstream, hmarked, assembledTriangles_shader_three rfl]
      rfl

end Sys2Proof.Machine

/-! SUPPORT. The configuration fields and Reconfigure (45_geometry_pipeline.md R210, R212, R220; 46_host_port.md R252 to
R256). -/

namespace Sys2Proof.Machine

open Sys2Proof.Claims

/-! ### The configuration fields -/

theorem toNat_field_zero (w : Word) (n : Nat) : (field w 0 n).toNat = w.toNat % 2 ^ n := by
  rw [toNat_field, pow_zero, Nat.div_one]

theorem gsShared_iff (s : State) : s.gsShared = true ↔ (s.hregRead regGsShared).toNat % 2 = 0 := by
  unfold State.gsShared flagAt
  rw [BitVec.getLsbD, Nat.testBit_zero, Bool.not_eq_true', decide_eq_false_iff_not, Nat.mod_two_not_eq_one]

/-- An entry of an input map is a field of four bits (R256). -/
theorem val_ofNat_field (w : Word) (lo : Nat) : (Fin.ofNat 16 (field w lo 4).toNat).val = w.toNat / 2 ^ lo % 16 := by
  rw [Fin.val_ofNat, Nat.mod_eq_of_lt (field w lo 4).isLt]
  exact toNat_field w lo 4

theorem val_inMap_of_lt (s : State) (u : UnitId) {i : Fin 16} (h : i.val < 8) :
    (s.inMap u i).val = (s.hregRead (regInMap u)).toNat / 2 ^ (4 * i.val) % 16 := by
  unfold State.inMap
  rw [if_pos h, val_ofNat_field]

theorem val_inMap_of_le (s : State) (u : UnitId) {i : Fin 16} (h : 8 ≤ i.val) :
    (s.inMap u i).val = (s.hregRead (regInMap u + 1)).toNat / 2 ^ (4 * (i.val - 8)) % 16 := by
  unfold State.inMap
  rw [if_neg (Nat.not_lt.mpr h), val_ofNat_field]

theorem configurationFields : ConfigurationFields := by
  unfold ConfigurationFields
  intro s
  have hunit (u : UnitId) := And.intro (toNat_field_zero (s.hregRead (regEntry u)) 16) <|
    And.intro (congrArg (· + 1) (toNat_field_zero (s.hregRead (regInNum u)) 4)) <|
    And.intro (getLsbD_outMask s u) <| And.intro (fun i => val_inMap_of_lt s u (i := i))
      fun i => val_inMap_of_le s u (i := i)
  exact ⟨toNat_field_zero _ 2, toNat_field_zero _ 2, congrArg (· + 1) (toNat_field _ 8 4), toNat_field _ 16 8,
    congrArg (· + 1) (toNat_field_zero _ 4), congrArg (· + 1) (toNat_field_zero _ 4), gsShared_iff s, toNat_field _ 8 2,
    hunit⟩

theorem configurationRegisterNumbers : ConfigurationRegisterNumbers := by
  unfold ConfigurationRegisterNumbers
  refine ⟨rfl, rfl, rfl, rfl, rfl, rfl, fun u base hbase => ?_⟩
  rcases hbase with ⟨rfl, rfl⟩ | ⟨rfl, rfl⟩
  · exact ⟨rfl, fun _ => rfl, rfl, rfl, rfl, rfl⟩
  · exact ⟨rfl, fun _ => rfl, rfl, rfl, rfl, rfl⟩

/-! ### Reconfigure -/

section
variable {s : State}

theorem selectBackend_passthrough (huse : s.useGs = 0#2) : s.selectBackend = some .passthrough := if_pos huse

/-- With a geometry shader in use the mode selects the backend (R210). -/
theorem selectBackend_of_use (huse : s.useGs = 2#2) : s.selectBackend =
    if s.gsMode = 0#2 then
      if s.numIn .gs % s.vsOutNum = 0 then some (.point s.vsOutNum (s.numIn .gs) (freeRegs s.fresh) 0) else none
    else if s.gsMode = 1#2 then some (.variablePrim s.vsOutNum none)
    else if s.gsMode = 2#2 then
      if s.fixedStart + s.vsOutNum * s.fixedVertexNum ≤ 96 then
        some (.fixedPrim s.vsOutNum s.fixedStart (s.fixedStart + s.vsOutNum * s.fixedVertexNum) s.fixedStart)
      else none
    else none := by
  unfold State.selectBackend
  rw [huse, if_neg (by decide), if_pos rfl]

theorem selectBackend_point (huse : s.useGs = 2#2) (hmode : s.gsMode = 0#2) (hmod : s.numIn .gs % s.vsOutNum = 0) :
    s.selectBackend = some (.point s.vsOutNum (s.numIn .gs) (freeRegs s.fresh) 0) := by
  rw [selectBackend_of_use huse, hmode, if_pos rfl, if_pos hmod]

theorem selectBackend_variable (huse : s.useGs = 2#2) (hmode : s.gsMode = 1#2) :
    s.selectBackend = some (.variablePrim s.vsOutNum none) := by
  rw [selectBackend_of_use huse, hmode, if_neg (by decide), if_pos rfl]

theorem selectBackend_fixed (huse : s.useGs = 2#2) (hmode : s.gsMode = 2#2)
    (hend : s.fixedStart + s.vsOutNum * s.fixedVertexNum ≤ 96) : s.selectBackend =
      some (.fixedPrim s.vsOutNum s.fixedStart (s.fixedStart + s.vsOutNum * s.fixedVertexNum) s.fixedStart) := by
  rw [selectBackend_of_use huse, hmode, if_neg (by decide), if_neg (by decide), if_pos rfl, if_pos hend]

theorem reconfigure_of_selectBackend (hempty : s.gp.isEmpty = true) {b : Backend} (h : s.selectBackend = some b) :
    s.reconfigure = .next { s with gp := b, fresh := s.fresh + 64 } :=
  (reconfigure_eq_next s _).mpr ⟨hempty, b, h, rfl⟩

end

/-- Settles O48: the fields and numbers, then the backend that each configuration selects. -/
theorem reconfigureRule : Obligations.ReconfigureRule := by
  unfold Obligations.ReconfigureRule
  refine ⟨configurationFields, configurationRegisterNumbers, fun s hempty => ?_⟩
  have hnext {b : Backend} (h : s.selectBackend = some b) := reconfigure_of_selectBackend hempty h
  exact ⟨fun huse => ⟨_, hnext (selectBackend_passthrough huse), rfl, rfl⟩,
    fun huse hmode hmod => ⟨_, _, hnext (selectBackend_point huse hmode hmod), rfl, rfl⟩,
    fun huse hmode => ⟨_, hnext (selectBackend_variable huse hmode), rfl, rfl, rfl⟩,
    fun huse hmode hend => ⟨_, hnext (selectBackend_fixed huse hmode hend), rfl, rfl⟩⟩

end Sys2Proof.Machine


/-! SUPPORT. Submitting a vertex or an index to the geometry backends (45_geometry_pipeline.md R213, R216, R217, R221). -/

namespace Sys2Proof.Machine

open Sys2Proof.Claims

/-! ### Attributes -/

/-- What the vertex has is taken as it is (R208). -/
theorem takesAttributes (s : State) (A : Vertex) : TakesAttributes s A := by
  unfold TakesAttributes attrAt
  exact fun i h => List.getD_eq_getElem A _ h

/-- A run of registers written from number `k` on holds the values in order, every other register its content. -/
theorem getElem_writeFrom {n : Nat} (xs : List Vec4) (file : Vector Vec4 n) (k : Nat) (j : Fin n) :
    (writeFrom file k xs)[j] = if k ≤ j.val then xs[j.val - k]?.getD file[j] else file[j] := by
  induction xs generalizing file k with
  | nil => simp [writeFrom]
  | cons x rest ih =>
    rw [writeFrom, ih]
    simp only [Fin.getElem_fin, Vector.getElem_setIfInBounds]
    rcases Nat.lt_trichotomy k j.val with hlt | heq | hgt
    · have hsub : j.val - k = j.val - (k + 1) + 1 := by omega
      rw [if_pos (Nat.succ_le_of_lt hlt), if_neg (Nat.ne_of_lt hlt), if_pos (Nat.le_of_lt hlt), hsub,
        List.getElem?_cons_succ]
    · rw [if_neg (by omega), if_pos heq, if_pos (Nat.le_of_eq heq), heq, Nat.sub_self]
      rfl
    · rw [if_neg (by omega), if_neg (by omega), if_neg (by omega)]

/-- The first `m` attributes written from register `k` on (R213, R217, R221). -/
theorem getElem_writeFrom_attrList {n : Nat} (file : Vector Vec4 n) (k m free : Nat) (A : Vertex) (j : Fin n) :
    (writeFrom file k (attrList free A m))[j] =
      if k ≤ j.val ∧ j.val < k + m then attrAt free A (j.val - k) else file[j] := by
  rw [getElem_writeFrom]
  unfold attrList
  by_cases hlo : k ≤ j.val
  · by_cases hhi : j.val < k + m
    · have hlt : j.val - k < m := by omega
      simp [hlo, hhi, hlt]
    · have hge : ¬ j.val - k < m := by omega
      simp [hlo, hhi, hge]
  · simp [hlo]

/-! ### A buffered vertex -/

/-- The state after a vertex that is buffered: a new backend, uniforms and inputs, and a start of the geometry unit where
the buffer is full (R223). -/
def State.buffered (s : State) (b : Backend) (c : Vector Vec4 96) (v : Vector Vec4 16) (full : Bool) : State :=
  if full then (s.filled b c v).invokeGs else s.filled b c v

section
variable (s : State) (b : Backend) (c : Vector Vec4 96) (v : Vector Vec4 16) (full : Bool)

@[simp] theorem State.gp_buffered : (s.buffered b c v full).gp = b := by cases full <;> rfl
@[simp] theorem State.vs_buffered : (s.buffered b c v full).vs = s.vs := by cases full <;> rfl
@[simp] theorem State.vout_buffered : (s.buffered b c v full).vout = s.vout := by cases full <;> rfl
@[simp] theorem State.hreg_buffered : (s.buffered b c v full).hreg = s.hreg := by cases full <;> rfl
@[simp] theorem State.em_buffered : (s.buffered b c v full).em = s.em := by cases full <;> rfl
@[simp] theorem State.gs_c_buffered : (s.buffered b c v full).gs.c = c := by cases full <;> rfl
@[simp] theorem State.gs_v_buffered : (s.buffered b c v full).gs.v = v := by cases full <;> rfl

/-- A full buffer starts the geometry unit at its entry point. -/
theorem State.started_buffered {full : Prop} [Decidable full] (h : full) :
    (s.buffered b c v (decide full)).gs.run = .running ∧ (s.buffered b c v (decide full)).gs.pc = s.entry .gs := by
  rw [decide_eq_true h]
  exact ⟨rfl, rfl⟩

/-- Where no input changes and the buffer is not full, the geometry unit is as before but for its uniforms. -/
theorem State.gs_buffered_of_not_full {full : Prop} [Decidable full] (h : ¬ full) :
    (s.buffered b c s.gs.v (decide full)).gs = { s.gs with c := (s.buffered b c s.gs.v (decide full)).gs.c } := by
  rw [decide_eq_false h]
  rfl

end

section
variable {s : State} (A : Vertex) {vsOut inNum cur first last : Nat}

theorem gpSubmitVertex_point {buf : Vector Vec4 16} (hgp : s.gp = .point vsOut inNum buf cur) :
    s.gpSubmitVertex A =
      if cur + vsOut = inNum then
        .next (s.buffered (.point vsOut inNum (writeFrom buf cur (attrList s.fresh A vsOut)) 0) s.gs.c
          (loadInput s.gs.v (writeFrom buf cur (attrList s.fresh A vsOut)) (s.inMap .gs) inNum) true)
      else
        .next (s.buffered (.point vsOut inNum (writeFrom buf cur (attrList s.fresh A vsOut)) (cur + vsOut)) s.gs.c
          s.gs.v false) := by
  unfold State.gpSubmitVertex
  rw [hgp]
  rfl

/-- A write of attributes to uniforms of the geometry unit that stays below c96, and then the start where `full`. -/
theorem seqR_writeGsUniforms {b : Backend} {k n : Nat} {full : Prop} [Decidable full] (h : k + n ≤ 96) :
    seqR (State.writeGsUniforms { s with fresh := s.fresh + 64, gp := b } k (attrList s.fresh A n))
        (fun t => .next (if full then t.invokeGs else t)) =
      .next (s.buffered b (writeFrom s.gs.c k (attrList s.fresh A n)) s.gs.v (decide full)) := by
  rw [(writeGsUniforms_eq_next _ _ _ _).mpr ⟨by rwa [length_attrList], rfl⟩, seqR_next]
  by_cases hfull : full
  · rw [if_pos hfull, decide_eq_true hfull]; rfl
  · rw [if_neg hfull, decide_eq_false hfull]; rfl

theorem gpSubmitVertex_variable {main total n : Nat} (hgp : s.gp = .variablePrim vsOut (some ⟨main, total, cur⟩))
    (hn : main ≠ 0 ∧ n = vsOut ∨ main = 0 ∧ n = 1) (hroom : cur + n ≤ 96) :
    s.gpSubmitVertex A = .next (s.buffered
      (.variablePrim vsOut (if total = 1 then none else some ⟨main - 1, total - 1, cur + n⟩))
      (writeFrom s.gs.c cur (attrList s.fresh A n)) s.gs.v (decide (total = 1))) := by
  unfold State.gpSubmitVertex
  rw [hgp]
  dsimp only
  rcases hn with ⟨hmain, rfl⟩ | ⟨rfl, rfl⟩
  · simp only [hmain, ne_eq, not_false_eq_true, decide_true, if_true, seqR_writeGsUniforms A hroom]
  · simp only [ne_eq, not_true_eq_false, decide_false, Bool.false_eq_true, if_false,
      seqR_writeGsUniforms A hroom, Nat.zero_sub]

theorem gpSubmitVertex_fixed (hgp : s.gp = .fixedPrim vsOut first last cur) (hroom : cur + vsOut ≤ 96) :
    s.gpSubmitVertex A = .next (s.buffered
      (.fixedPrim vsOut first last (if cur + vsOut = last then first else cur + vsOut))
      (writeFrom s.gs.c cur (attrList s.fresh A vsOut)) s.gs.v (decide (cur + vsOut = last))) := by
  unfold State.gpSubmitVertex
  rw [hgp]
  exact seqR_writeGsUniforms A hroom

end

/-- Settles O49: the buffer is written either way; the full one is loaded and restarted. -/
theorem pointSubmitVertex : Obligations.PointSubmitVertex := by
  unfold Obligations.PointSubmitVertex
  intro s A vsOut inNum cur buf hgp
  have hnext := gpSubmitVertex_point A hgp
  have hslots := getElem_writeFrom_attrList buf cur vsOut s.fresh A
  by_cases hfull : cur + vsOut = inNum
  · rw [if_pos hfull] at hnext
    exact ⟨_, _, hnext, takesAttributes s A, hslots, fun _ => ⟨rfl, rfl, rfl, rfl, rfl⟩, fun h => absurd hfull h,
      rfl, rfl, rfl, rfl⟩
  · rw [if_neg hfull] at hnext
    exact ⟨_, _, hnext, takesAttributes s A, hslots, fun h => absurd h hfull,
      fun _ => ⟨rfl, rfl⟩, rfl, rfl, rfl, rfl⟩

/-- Settles O51: the uniforms of the window are written either way; at its end filling starts over. -/
theorem fixedSubmitVertex : Obligations.FixedSubmitVertex := by
  unfold Obligations.FixedSubmitVertex
  intro s A vsOut first last cur hgp hroom
  refine ⟨_, gpSubmitVertex_fixed A hgp hroom, takesAttributes s A, fun j => ?uniforms, fun hfull => ?full,
    fun hfull => ?notFull, State.gs_v_buffered .., State.vs_buffered .., State.vout_buffered .., State.hreg_buffered ..,
    State.em_buffered ..⟩
  case uniforms => rw [State.gs_c_buffered, getElem_writeFrom_attrList]
  case full => exact ⟨by rw [State.gp_buffered, if_pos hfull], State.started_buffered _ _ _ _ hfull⟩
  case notFull => exact ⟨by rw [State.gp_buffered, if_neg hfull], State.gs_buffered_of_not_full _ _ _ hfull⟩

/-! ### The index of VariablePrimitive mode -/

section
variable {n : Nat} (h0 : n ≠ 0) (h : n < 65536)
include h0 h

theorem log2_lt_sixteen : n.log2 < 16 := (Nat.log2_lt h0).mpr h

/-- A count scaled to 17 bits, its leading one in bit 16. -/
theorem scaledCount_bounds : 65536 ≤ n * 2 ^ (16 - n.log2) ∧ n * 2 ^ (16 - n.log2) < 131072 := by
  have hlog := log2_lt_sixteen h0 h
  constructor
  · calc 65536 = 2 ^ n.log2 * 2 ^ (16 - n.log2) := by rw [← pow_add, Nat.add_sub_cancel' hlog.le]; rfl
      _ ≤ n * 2 ^ (16 - n.log2) := Nat.mul_le_mul_right _ (Nat.log2_self_le h0)
  · calc n * 2 ^ (16 - n.log2) < 2 ^ (n.log2 + 1) * 2 ^ (16 - n.log2) :=
          Nat.mul_lt_mul_of_pos_right Nat.lt_log2_self (Nat.two_pow_pos _)
      _ = 131072 := by rw [← pow_add, show n.log2 + 1 + (16 - n.log2) = 17 by omega]; rfl

/-- The binary32 pattern of a count below 2^16, by fields; the low seven bits of the fraction are 0 (R216). -/
theorem f32OfNat_eq_fields : f32OfNat n =
    BitVec.ofNat 32 (false.toNat * 2147483648 + (127 + n.log2) * 8388608 + (n * 2 ^ (16 - n.log2) - 65536) * 128) := by
  have hlog := log2_lt_sixteen h0 h
  have hfraction : n * 2 ^ (23 - n.log2) = n * 2 ^ (16 - n.log2) * 128 := by
    rw [show 23 - n.log2 = 16 - n.log2 + 7 by omega, pow_add, mul_assoc]
    rfl
  unfold f32OfNat
  rw [if_neg h0, hfraction, Bool.toNat_false, Nat.zero_mul, Nat.zero_add, Nat.sub_mul]

/-- A count below 2^16 is exact in f24: its leading bit gives the exponent, the rest the mantissa (R93, R216). -/
theorem classF_f24FromF32_f32OfNat :
    classF (f24FromF32 (f32OfNat n)) = .fin false (63 + n.log2) (n * 2 ^ (16 - n.log2) - 65536) := by
  have hlog := log2_lt_sixteen h0 h
  have hbounds := scaledCount_bounds h0 h
  have hmantissa : n * 2 ^ (16 - n.log2) - 65536 < 65536 := by omega
  have hword := f32OfNat_eq_fields h0 h
  generalize n * 2 ^ (16 - n.log2) - 65536 = m at hword hmantissa ⊢
  obtain ⟨hexp, hfraction, hsign⟩ := fields_f32 false (e := 127 + n.log2) (f := m * 128) (by omega) (by omega)
  rw [hword, f24FromF32_normal (by omega) (by omega), hexp, hfraction, hsign, Nat.mul_div_cancel m (by decide),
    show 127 + n.log2 - 64 = 63 + n.log2 by omega]
  exact classF_packF_fin false _ m (by omega) (by omega) hmantissa

/-- The real value of a count is the count (R216). -/
theorem valR_f24FromF32_f32OfNat : valR (f24FromF32 (f32OfNat n)) = n := by
  obtain ⟨hlo, -⟩ := scaledCount_bounds h0 h
  have hlog := log2_lt_sixteen h0 h
  have hexp : ((63 + n.log2 : ℕ) : ℤ) - 79 = -((16 - n.log2 : ℕ) : ℤ) := by omega
  rw [valR_of_fin (classF_f24FromF32_f32OfNat h0 h), hexp, zpow_neg, zpow_natCast, Nat.cast_sub hlo]
  push_cast
  rw [add_sub_cancel, mul_inv_cancel_right₀ (by positivity)]
  simp [signR]

end

/-- Every component of a repeated value is that value. -/
theorem comp_splat_apply (a : F24) (k : Fin 4) : comp (Vec4.splat a) k = a := congrFun (comp_splat a) k

/-- Settles O50: the index writes c0 alone, with the exact count; a vertex writes its attributes and counts down. -/
theorem variableSubmit : Obligations.VariableSubmit := by
  unfold Obligations.VariableSubmit
  refine ⟨fun s vsOut n hgp hn => ?index, fun s A vsOut main total cur n hgp hcount hroom => ?vertex⟩
  case index =>
    have h0 : n.toNat ≠ 0 := fun e => hn (BitVec.eq_of_toNat_eq e)
    have hmain : s.mainVertexNum = (s.hregRead regGsMainNum).toNat % 16 + 1 := congrArg (· + 1) (toNat_field_zero _ 4)
    have hcount (k : Fin 4) : comp ((s.gs.c.set 0 (Vec4.splat (f24FromF32 (f32OfNat n.toNat))))[(0 : Fin 96)]) k =
        f24FromF32 (f32OfNat n.toNat) := (congrArg (comp · k) (Vector.getElem_set_self _)).trans (comp_splat_apply _ k)
    refine ⟨_, (gpSubmitIndex_eq_next s _ n).mpr ⟨hn, vsOut, hgp, rfl⟩, by rw [hmain],
      fun k => ?count, fun j hj => ?others⟩
    case count =>
      rw [hcount]
      exact ⟨.inr ⟨_, _, _, classF_f24FromF32_f32OfNat h0 n.isLt⟩, valR_f24FromF32_f32OfNat h0 n.isLt⟩
    case others => exact Vector.getElem_set_ne (by decide) j.isLt fun e => hj (Fin.ext e.symm)
  case vertex =>
    refine ⟨_, gpSubmitVertex_variable A hgp hcount hroom, takesAttributes s A, fun j => ?uniforms, fun hlast => ?last,
      fun hlast => ?notLast, State.gs_v_buffered .., State.vs_buffered .., State.vout_buffered .., State.hreg_buffered ..,
      State.em_buffered ..⟩
    case uniforms => rw [State.gs_c_buffered, getElem_writeFrom_attrList]
    case last => exact ⟨by rw [State.gp_buffered, if_pos hlast], State.started_buffered _ _ _ _ hlast⟩
    case notLast => exact ⟨by rw [State.gp_buffered, if_neg hlast], State.gs_buffered_of_not_full _ _ _ hlast⟩

end Sys2Proof.Machine

/-! SUPPORT. Register writes (46_host_port.md R244 to R247, R252 to R255): the masked store, what the numbers of the
special registers name, and the writes whose side effect is small. -/

namespace Sys2Proof.Machine

open Sys2Proof.Claims

/-! ### The register file -/

theorem regInRange_iff (id : Nat) : regInRange id = true ↔ id < Config.regfileWords := by
  have hsize : 0x300 ≤ Config.regfileWords := Nat.le_add_right _ _
  unfold regInRange
  rw [Bool.or_eq_true, decide_eq_true_iff, decide_eq_true_iff]
  omega

/-- The register file has at most 0x10000 words (R240, assumption 14). -/
theorem regfileWords_le : Config.regfileWords ≤ 0x10000 := by
  have h := Config.regfileExtra.isLt
  unfold Config.regfileWords
  omega

/-- Every special register lies below 0x2E0 (R262). -/
theorem hostReg_of_ge {id : Nat} (h : 0x2E0 ≤ id) : hostReg id = .plain := by
  unfold hostReg regIrq regDraw regDrawIndexed regDefattrIndex regTopology regRestart
  repeat rw [if_neg (by omega)]

theorem regInRange_of_special {id : Nat} (h : hostReg id ≠ .plain) : regInRange id = true := by
  have hlt : id < 0x2E0 := not_le.mp fun hge => h (hostReg_of_ge hge)
  unfold regInRange
  rw [decide_eq_true (hlt.trans (by decide)), Bool.true_or]

/-- Registers of different kinds are different registers. -/
theorem ne_of_hostReg {k id : Nat} (h : hostReg k ≠ hostReg id) : k ≠ id := fun e => h (congrArg hostReg e)

theorem otherRegsSame_hregWrite (s : State) (id : Nat) (w : Word) : OtherRegsSame s (s.hregWrite id w) id :=
  fun k hk => hregRead_hregWrite_other s id k w hk

/-- A write to a special register leaves the plain ones, among them all that hold a configuration (R254, R256). -/
theorem hregRead_plain_hregWrite (s : State) {k id : Nat} {r : HostReg} (hk : hostReg k = .plain) (hr : hostReg id = r)
    (hne : r ≠ .plain) (w : Word) : (s.hregWrite id w).hregRead k = s.hregRead k :=
  hregRead_hregWrite_other s id k w (ne_of_hostReg (by rw [hk, hr]; exact hne.symm))

theorem gsShared_hregWrite (s : State) {id : Nat} {r : HostReg} (hr : hostReg id = r) (hne : r ≠ .plain) (w : Word) :
    (s.hregWrite id w).gsShared = s.gsShared :=
  congrArg (fun x => !flagAt x 0) (hregRead_plain_hregWrite s rfl hr hne w)

/-! ### The register write (R245, R246) -/

theorem writeReg_outside (s : State) {id : Nat} (h : Config.regfileWords ≤ id) (value : Word) (mask : BitVec 4) :
    s.writeReg id value mask = .next (s.raise (.badRegisterId id)) := by
  rw [writeReg_eq, if_neg (mt (regInRange_iff id).mp (Nat.not_lt.mpr h))]

theorem writeReg_inside (s : State) {id : Nat} (h : regInRange id = true) (value : Word) (mask : BitVec 4) :
    s.writeReg id value mask = (s.hregWrite id (mergeMasked (s.hregRead id) value mask)).sideEffect (hostReg id)
      (mergeMasked (s.hregRead id) value mask) := by
  rw [writeReg_eq, if_pos h]

theorem writeReg_special (s : State) {id : Nat} {r : HostReg} (hr : hostReg id = r) (hne : r ≠ .plain) (value : Word)
    (mask : BitVec 4) : s.writeReg id value mask =
      (s.hregWrite id (mergeMasked (s.hregRead id) value mask)).sideEffect r (mergeMasked (s.hregRead id) value mask) :=
  hr ▸ writeReg_inside s (regInRange_of_special (hr ▸ hne)) value mask

/-- A full mask takes the whole written value (R245). -/
theorem mergeMasked_full (old value : Word) : mergeMasked old value 15 = value := by
  have hmask : expandMask 15 = BitVec.allOnes 32 := by decide
  unfold mergeMasked
  rw [hmask, BitVec.not_allOnes, BitVec.and_zero, BitVec.and_allOnes, BitVec.zero_or]

theorem writeReg_special_full (s : State) {id : Nat} {r : HostReg} (hr : hostReg id = r) (hne : r ≠ .plain) (d : Word) :
    s.writeReg id d 15 = (s.hregWrite id d).sideEffect r d := by
  rw [writeReg_special s hr hne, mergeMasked_full]

/-- The register that a masked write leaves, lane by lane (R245). -/
theorem isMerged_hregWrite {s : State} (h : HregCanonical s.hreg) (id : Nat) (value : Word) (mask : BitVec 4) :
    IsMerged (s.hregRead id) value mask
      ((s.hregWrite id (mergeMasked (s.hregRead id) value mask)).hregRead id) := by
  rw [hregRead_hregWrite_same s id _ h]
  exact isMerged_mergeMasked _ _ _

/-! ### Integer and boolean uniforms (R252, R255) -/

theorem hostReg_regIuni (u : UnitId) (n : Fin 4) : hostReg (regIuni u n) = .intUniform u n := by
  cases u <;> revert n <;> decide

theorem hostReg_regBuni (u : UnitId) : hostReg (regBuni u) = .boolUniform u := by
  cases u <;> rfl

section
variable {s : State} {u : UnitId} {gsReg : Nat} {d : Word}

theorem mirrorUniform_eq : s.mirrorUniform u gsReg d = if u = .vs ∧ s.gsShared then s.hregWrite gsReg d else s := rfl

/-- The copy changes the register file alone. -/
theorem mirrorUniform_frame : s.mirrorUniform u gsReg d = { s with hreg := (s.mirrorUniform u gsReg d).hreg } := by
  rw [mirrorUniform_eq]; split <;> rfl

theorem hregRead_mirrorUniform_other {k : Nat} (h : ¬ (u = .vs ∧ s.gsShared = true ∧ k = gsReg)) :
    (s.mirrorUniform u gsReg d).hregRead k = s.hregRead k := by
  rw [mirrorUniform_eq]
  split
  · next hm => exact hregRead_hregWrite_other s gsReg k d fun e => h ⟨hm.1, hm.2, e⟩
  · rfl

theorem hregRead_mirrorUniform_same (hu : u = .vs) (hshared : s.gsShared = true) (h : HregCanonical s.hreg) :
    (s.mirrorUniform u gsReg d).hregRead gsReg = d := by
  rw [mirrorUniform_eq, if_pos ⟨hu, hshared⟩, hregRead_hregWrite_same s gsReg d h]

end

/-- A write of `d` to a uniform register `id` of unit `u`, mirrored in `gsReg` (R252, R255): the unit's register holds
`d`, the geometry unit's one too where the units share, and no other register or field changes. -/
theorem mirrorUniform_hregWrite {s : State} (h : HregCanonical s.hreg) {u : UnitId} {id gsReg : Nat} (d : Word)
    {r : HostReg} (hr : hostReg id = r) (hne : r ≠ .plain) (hid : u = .vs → id ≠ gsReg) :
    ∃ t, (s.hregWrite id d).mirrorUniform u gsReg d = t ∧ t = { s with hreg := t.hreg } ∧ t.hregRead id = d ∧
      (u = .vs → s.gsShared = true → t.hregRead gsReg = d) ∧
      ∀ k, k ≠ id → ¬ (u = .vs ∧ s.gsShared = true ∧ k = gsReg) → t.hregRead k = s.hregRead k := by
  have hshared := gsShared_hregWrite s hr hne d
  refine ⟨_, rfl, mirrorUniform_frame, ?stored, fun hu hs => ?mirrored, fun k hk hno => ?others⟩
  case stored =>
    rw [hregRead_mirrorUniform_other fun ⟨hu, _, e⟩ => hid hu e, hregRead_hregWrite_same s id d h]
  case mirrored =>
    exact hregRead_mirrorUniform_same hu (hshared.trans hs) (hregWrite_canonical s id d h)
  case others =>
    rw [hregRead_mirrorUniform_other (hshared ▸ hno), hregRead_hregWrite_other s id k d hk]

/-- Boolean uniform `b` is bit `b` of its register (R252). -/
theorem boolUniform_of_hregRead {s : State} {u : UnitId} {m : Word} (h : s.hregRead (regBuni u) = m) (b : Fin 16) :
    s.boolUniform u b = m.getLsbD b.val := congrArg (·.getLsbD b.val) h

/-- Settles O54: the masked store, then the side effect of the register that the number names; for a uniform register
that is the copy to the geometry unit. -/
theorem maskedRegisterWrite : Obligations.MaskedRegisterWrite := by
  unfold Obligations.MaskedRegisterWrite
  intro s id value mask
  refine ⟨fun h => writeReg_outside s (h.elim (fun hge => hge) regfileWords_le.trans) value mask,
    fun hid hcanon => ?inside⟩
  have hwrite := writeReg_inside s ((regInRange_iff id).mpr hid) value mask
  refine ⟨mergeMasked (s.hregRead id) value mask, s.hregWrite id (mergeMasked (s.hregRead id) value mask),
    isMerged_mergeMasked _ _ _, hregRead_hregWrite_same s id _ hcanon, otherRegsSame_hregWrite s id _, rfl, hwrite,
    fun hplain => ?plain, fun u n hint => ?int, fun u hbool => ?bool⟩
  case plain => rw [hwrite, hplain]; rfl
  case int =>
    subst hint
    have hr := hostReg_regIuni u n
    obtain ⟨t, ht, hframe, hown, hmirror, hothers⟩ := mirrorUniform_hregWrite hcanon (u := u) (gsReg := regIuni .gs n)
      (mergeMasked (s.hregRead (regIuni u n)) value mask) hr nofun
      fun hu => ne_of_hostReg (by rw [hr, hostReg_regIuni, hu]; nofun)
    exact ⟨t, by rw [hwrite, hr]; exact congrArg Host.Outcome.next ht, hframe, congrArg intX hown, congrArg intY hown,
      congrArg intZ hown, congrArg intW hown, hmirror, hothers⟩
  case bool =>
    subst hbool
    have hr := hostReg_regBuni u
    obtain ⟨t, ht, hframe, hown, hmirror, hothers⟩ := mirrorUniform_hregWrite hcanon (u := u) (gsReg := regBuni .gs)
      (mergeMasked (s.hregRead (regBuni u)) value mask) hr nofun
      fun hu => ne_of_hostReg (by rw [hr, hostReg_regBuni, hu]; nofun)
    exact ⟨t, by rw [hwrite, hr]; exact congrArg Host.Outcome.next ht, hframe, boolUniform_of_hregRead hown,
      fun hu hshared => boolUniform_of_hregRead (hmirror hu hshared), hothers⟩

/-! ### The interrupt and the assembler's reset (R254, R261) -/

/-- Bits `9:8` of a masked write come from the value where mask bit 1 is set, else they stay (R245, R254). -/
theorem toNat_field_of_isMerged {old value m : Word} {mask : BitVec 4} (h : IsMerged old value mask m) :
    (field m 8 2).toNat = if mask.getLsbD 1 then value.toNat / 2 ^ 8 % 4 else (field old 8 2).toNat := by
  have hlane : field m 8 8 = if mask.getLsbD 1 then field value 8 8 else field old 8 8 := h 1
  have hnat := congrArg BitVec.toNat hlane
  rw [toNat_field, toNat_field]
  split at hnat <;> rw [toNat_field, toNat_field] at hnat
  · next hbit => rw [if_pos hbit]; omega
  · next hbit => rw [if_neg hbit]; omega

theorem topology_of_isMerged {s t : State} {value : Word} {mask : BitVec 4}
    (h : IsMerged (s.hregRead regTopology) value mask (t.hregRead regTopology)) :
    t.topology = if mask.getLsbD 1 then value.toNat / 2 ^ 8 % 4 else s.topology := toNat_field_of_isMerged h

/-- Settles O57: the masked store with the side effect of each of the three registers. -/
theorem interruptAndAssemblerReset : Obligations.InterruptAndAssemblerReset := by
  unfold Obligations.InterruptAndAssemblerReset
  intro s value mask
  refine ⟨?irq, fun id hid => ?assembler⟩
  case irq =>
    exact ⟨_, writeReg_special s (r := .irq) rfl nofun value mask, rfl, otherRegsSame_hregWrite s regIrq _,
      fun hcanon => isMerged_hregWrite hcanon regIrq value mask⟩
  case assembler =>
    have hwrite : s.writeReg id value mask =
        .next { s.hregWrite id (mergeMasked (s.hregRead id) value mask) with pa := s.pa.reset } := by
      rcases hid with rfl | rfl
      · exact writeReg_special s (r := .topology) rfl nofun value mask
      · exact writeReg_special s (r := .restart) rfl nofun value mask
    refine ⟨_, hwrite, rfl, otherRegsSame_hregWrite s id _, fun hcanon => ?_⟩
    have hmerged := isMerged_hregWrite hcanon id value mask
    exact ⟨hmerged, fun htopology => topology_of_isMerged (htopology ▸ hmerged)⟩

end Sys2Proof.Machine

/-! SUPPORT. Loads into the shader units through their data registers (46_host_port.md R248 to R251, R255): program words,
operand descriptors and float uniforms, with their counters and the mirror in the geometry unit. -/

namespace Sys2Proof.Machine

open Sys2Proof.Claims

/-! ### The registers of the loads (R262) -/

theorem hostReg_regProgData (u : UnitId) (k : Fin 8) : hostReg (regProgData u + k.val) = .progData u := by
  cases u <;> revert k <;> decide

theorem hostReg_regSwzData (u : UnitId) (k : Fin 8) : hostReg (regSwzData u + k.val) = .swzData u := by
  cases u <;> revert k <;> decide

theorem hostReg_regFuniData (u : UnitId) (k : Fin 8) : hostReg (regFuniData u + k.val) = .funiData u := by
  cases u <;> revert k <;> decide

theorem hostReg_regProgOffset (u : UnitId) : hostReg (regProgOffset u) = .plain := by cases u <;> rfl

theorem hostReg_regSwzOffset (u : UnitId) : hostReg (regSwzOffset u) = .plain := by cases u <;> rfl

theorem hostReg_regFuniSetup (u : UnitId) : hostReg (regFuniSetup u) = .plain := by cases u <;> rfl

/-! ### Mirrored stores (R255) -/

section
variable {s : State} {f : ShaderUnit → ShaderUnit} {put : UnitId → State → State}
  (hput : ∀ w x, put w x = x.setUnit w (f (x.unit w))) (u : UnitId)
include hput

theorem unit_mirrored (v : UnitId) : (s.mirrored u put).unit v =
    if v = u ∨ (u = .vs ∧ s.gsShared = true) then f (s.unit v) else s.unit v := by
  unfold State.mirrored
  cases hshared : s.gsShared <;> cases u <;> cases v <;> simp [hput]

theorem hreg_mirrored : (s.mirrored u put).hreg = s.hreg := by
  unfold State.mirrored
  split <;> simp [hput]

theorem log_mirrored : (s.mirrored u put).log = s.log := by
  unfold State.mirrored
  split <;> simp [hput]

/-- A mirrored store with the counter that moves on behind it (R249 to R251). -/
theorem mirrored_hregWrite (hcanon : HregCanonical s.hreg) (id : Nat) (w : Word) :
    ((s.mirrored u put).hregWrite id w).hregRead id = w ∧ ((s.mirrored u put).hregWrite id w).log = s.log ∧
      ∀ v, ((s.mirrored u put).hregWrite id w).unit v =
        if v = u ∨ (u = .vs ∧ s.gsShared = true) then f (s.unit v) else s.unit v := by
  refine ⟨hregRead_hregWrite_same _ id w (by rwa [hreg_mirrored hput]), log_mirrored hput u, fun v => ?_⟩
  rw [State.unit_hregWrite, unit_mirrored hput]

end

/-! ### Program words and descriptors (R249, R250) -/

theorem storeRead_storeWrite {α : Type} (l : List (Nat × α)) (k j : Nat) (x : α) :
    storeRead (storeWrite l k x) j = if j = k then some x else storeRead l j := by
  split
  · next e => rw [e, storeRead_storeWrite_same]
  · next e => exact storeRead_storeWrite_other l k j x e

section
variable {u : UnitId} {x y : ShaderUnit} {c : Prop} [Decidable c] {o : Nat} {d : Word}

/-- A unit in which the word `d` is stored at `o` under a condition, word by word. -/
theorem progWord_of_stored (h : x = if c then { y with prog := storeWrite y.prog o d } else y) (a : Nat) :
    progWord u x a = if a = o ∧ c then d else progWord u y a := by
  subst h
  by_cases hc : c
  · simp only [hc, if_true, and_true, progWord, storeRead_storeWrite]
    split <;> rfl
  · simp only [hc, if_false, and_false]

theorem swzWord_of_stored (h : x = if c then { y with swz := storeWrite y.swz o d } else y) (a : Nat) :
    swzWord u x a = if a = o ∧ c then d else swzWord u y a := by
  subst h
  by_cases hc : c
  · simp only [hc, if_true, and_true, swzWord, storeRead_storeWrite]
    split <;> rfl
  · simp only [hc, if_false, and_false]

end

theorem progInRange_iff (u : UnitId) (a : Nat) :
    progInRange u a = true ↔ a < 512 ∨ (u = .gs ∧ a < 512 + Config.gsProgExtra) := by
  unfold progInRange Config.vsProgWords
  simp only [Bool.or_eq_true, Bool.and_eq_true, decide_eq_true_eq]

section
variable {s : State} {u : UnitId} {off : Word}

theorem loadProg_inRange (hoff : s.hregRead (regProgOffset u) = off) (h : progInRange u off.toNat = true) (d : Word) :
    s.loadProg u d =
      (s.mirrored u fun w x => x.putProg w off.toNat d).hregWrite (regProgOffset u) (off + 1#32) := by
  subst hoff; exact if_pos h

theorem loadProg_outOfRange (hoff : s.hregRead (regProgOffset u) = off) (h : ¬ progInRange u off.toNat = true) (d : Word) :
    s.loadProg u d = s.raise (.badStreamOffset u .prog off.toNat) := by
  subst hoff; exact if_neg h

theorem loadSwz_inRange (hoff : s.hregRead (regSwzOffset u) = off) (h : off.toNat < 128) (d : Word) :
    s.loadSwz u d =
      (s.mirrored u fun w x => x.putSwz w off.toNat d).hregWrite (regSwzOffset u) (off + 1#32) := by
  subst hoff; exact if_pos h

theorem loadSwz_outOfRange (hoff : s.hregRead (regSwzOffset u) = off) (h : 128 ≤ off.toNat) (d : Word) :
    s.loadSwz u d = s.raise (.badStreamOffset u .swz off.toNat) := by
  subst hoff; exact if_neg (Nat.not_lt.mpr h)

end

/-- Which unit executes, and so whose descriptor is read, depends on the run state of the geometry unit alone (R45). -/
theorem descriptor_of_run {s t : State} (h : t.gs.run = s.gs.run) (a : Nat) :
    t.descriptor a = swzWord s.cur (t.unit s.cur) a := by
  have hcur : t.cur = s.cur := by unfold State.cur; rw [h]
  unfold State.descriptor State.curUnit
  rw [hcur]

/-- Settles O55: in range the mirrored store with the counter behind it; out of range the anomaly alone. -/
theorem programAndDescriptorLoad : Obligations.ProgramAndDescriptorLoad := by
  unfold Obligations.ProgramAndDescriptorLoad
  intro s u k d off hcanon
  have hprog := hostReg_regProgData u k
  have hswz := hostReg_regSwzData u k
  have hprogOffset := hregRead_plain_hregWrite s (hostReg_regProgOffset u) hprog nofun d
  have hswzOffset := hregRead_plain_hregWrite s (hostReg_regSwzOffset u) hswz nofun d
  refine ⟨fun hoff hrange => ?progIn, fun hoff hrange => ?progOut, fun hoff hrange => ?swzIn, fun hoff hrange => ?swzOut⟩
  case progIn =>
    have hload := loadProg_inRange (hprogOffset.trans hoff) ((progInRange_iff u off.toNat).mpr hrange) d
    obtain ⟨hcounter, hlog, hunit⟩ := mirrored_hregWrite
      (f := fun x => { x with prog := storeWrite x.prog off.toNat d }) (put := fun w x => x.putProg w off.toNat d)
      (fun _ _ => rfl) u (hregWrite_canonical s (regProgData u + k.val) d hcanon)
      (regProgOffset u) (off + 1#32)
    simp only [gsShared_hregWrite s hprog nofun, State.unit_hregWrite s] at hunit
    refine ⟨_, (writeReg_special_full s hprog nofun d).trans (congrArg Host.Outcome.next hload), hcounter,
      fun v a => progWord_of_stored (hunit v) a, hlog, fun v => ?_⟩
    rw [hunit v]; split <;> rfl
  case progOut =>
    have hout : ¬ progInRange u off.toNat = true := by
      rw [progInRange_iff]
      rcases hrange with ⟨rfl, hge⟩ | hge
      · simpa using hge
      · omega
    have hload := loadProg_outOfRange (hprogOffset.trans hoff) hout d
    exact ⟨_, (writeReg_special_full s hprog nofun d).trans (congrArg Host.Outcome.next hload),
      hprogOffset.trans hoff, rfl, rfl, rfl⟩
  case swzIn =>
    have hload := loadSwz_inRange (hswzOffset.trans hoff) hrange d
    obtain ⟨hcounter, hlog, hunit⟩ := mirrored_hregWrite
      (f := fun x => { x with swz := storeWrite x.swz off.toNat d }) (put := fun w x => x.putSwz w off.toNat d)
      (fun _ _ => rfl) u (hregWrite_canonical s (regSwzData u + k.val) d hcanon)
      (regSwzOffset u) (off + 1#32)
    simp only [gsShared_hregWrite s hswz nofun, State.unit_hregWrite s] at hunit
    have hrun := congrArg ShaderUnit.run (hunit .gs)
    rw [apply_ite ShaderUnit.run, ite_self] at hrun
    refine ⟨_, (writeReg_special_full s hswz nofun d).trans (congrArg Host.Outcome.next hload), hcounter,
      fun v a => swzWord_of_stored (hunit v) a,
      fun a => (descriptor_of_run hrun a).trans (swzWord_of_stored (hunit s.cur) a), hlog, fun v => ?_⟩
    rw [hunit v]; split <;> rfl
  case swzOut =>
    have hload := loadSwz_outOfRange (hswzOffset.trans hoff) hrange d
    exact ⟨_, (writeReg_special_full s hswz nofun d).trans (congrArg Host.Outcome.next hload),
      hswzOffset.trans hoff, rfl, rfl, rfl⟩

end Sys2Proof.Machine

/-! SUPPORT. Float-uniform loads (46_host_port.md R251, R255): the assembly buffer of a unit, the uniform that a full
buffer makes, and where it is stored. -/

namespace Sys2Proof.Machine

open Sys2Proof.Claims

/-! ### The assembly buffer -/

/-- The word `d` put into the assembly buffer of unit `u`, which then counts `n` words. -/
def State.assembled (s : State) (u : UnitId) (d : Word) (n : Nat) : State :=
  s.setUnit u { s.unit u with fuBuf := (s.unit u).fuBuf.setIfInBounds (s.unit u).fuN d, fuN := n }

section
variable (s : State) (u : UnitId) (d : Word) (n : Nat)

theorem unit_assembled_same : (s.assembled u d n).unit u =
    { s.unit u with fuBuf := (s.unit u).fuBuf.setIfInBounds (s.unit u).fuN d, fuN := n } :=
  State.unit_setUnit_same s u _

theorem hreg_assembled : (s.assembled u d n).hreg = s.hreg := State.hreg_setUnit s u _

theorem log_assembled : (s.assembled u d n).log = s.log := State.log_setUnit s u _

theorem c_assembled (v : UnitId) : ((s.assembled u d n).unit v).c = (s.unit v).c := by
  cases u <;> cases v <;> rfl

theorem hregRead_assembled (id : Nat) : (s.assembled u d n).hregRead id = s.hregRead id :=
  hregRead_congr _ _ id (hreg_assembled s u d n)

theorem gsShared_assembled : (s.assembled u d n).gsShared = s.gsShared :=
  congrArg (fun x => !flagAt x 0) (hregRead_assembled s u d n regGsShared)

end

/-- The uniform that a full assembly buffer makes (R251). -/
def funiValue (f32 : Bool) (buf : Vector Word 4) : Vec4 :=
  if f32 then unpackF32 buf[0] buf[1] buf[2] buf[3] else unpackRaw buf[0] buf[1] buf[2]

theorem uniformFrom_funiValue (f32 : Bool) (buf : Vector Word 4) :
    UniformFrom f32 (fun i => buf[i]) (funiValue f32 buf) := by
  cases f32
  · exact isUnpacked_unpackRaw _ _ _
  · rfl

/-- A unit in which the uniform `t` is stored at `i` under a condition, uniform by uniform. -/
theorem getElem_c_of_stored {x y : ShaderUnit} {c : Prop} [Decidable c] {i : Nat} {t : Vec4}
    (h : x = if c then { y with c := y.c.setIfInBounds i t } else y) (j : Fin 96) :
    x.c[j] = if j.val = i ∧ c then t else y.c[j] := by
  subst h
  by_cases hc : c
  · simp only [hc, if_true, and_true, Fin.getElem_fin, Vector.getElem_setIfInBounds, @eq_comm Nat i]
  · simp only [hc, if_false, and_false]

/-! ### The load, by the words that are there (R251) -/

section
variable {s : State} {u : UnitId} {setup : Word} (hsetup : s.hregRead (regFuniSetup u) = setup) (d : Word)
include hsetup

theorem loadFuni_waiting (h : (s.unit u).fuN + 1 < if flagAt setup 31 then 4 else 3) :
    s.loadFuni u d = s.assembled u d ((s.unit u).fuN + 1) := by
  subst hsetup; exact if_neg (Nat.not_le.mpr h)

theorem loadFuni_dropped (h : (if flagAt setup 31 then 4 else 3) ≤ (s.unit u).fuN + 1)
    (hindex : 96 ≤ (field setup 0 8).toNat) :
    s.loadFuni u d = (s.assembled u d 0).raise (.badUniformIndex u (field setup 0 8).toNat) := by
  subst hsetup; exact (if_pos h).trans (if_pos hindex)

theorem loadFuni_stored (h : (if flagAt setup 31 then 4 else 3) ≤ (s.unit u).fuN + 1)
    (hindex : (field setup 0 8).toNat < 96) :
    s.loadFuni u d = ((s.assembled u d 0).mirrored u fun w x => x.putUniform w (field setup 0 8).toNat
      (funiValue (flagAt setup 31) ((s.unit u).fuBuf.setIfInBounds (s.unit u).fuN d))).hregWrite (regFuniSetup u)
        (field setup 8 24 ++ (field setup 0 8 + 1#8)) := by
  subst hsetup; exact (if_pos h).trans (if_neg (Nat.not_le.mpr hindex))

end

/-- An index below 96 goes on by one within its eight bits (R251). -/
theorem toNat_nextSetup {setup : Word} (h : (field setup 0 8).toNat < 96) :
    (field setup 8 24 ++ (field setup 0 8 + 1#8)).toNat = setup.toNat + 1 := by
  have hlt := setup.isLt
  have hfield := toNat_field_zero setup 8
  have hnext : (field setup 0 8 + 1#8).toNat = (field setup 0 8).toNat + 1 := by
    rw [BitVec.toNat_add, BitVec.toNat_ofNat]; omega
  rw [toNat_append_eq_add, toNat_field, hnext]
  omega

/-- Settles O56: the word goes into the buffer; a full buffer is stored with its mirror, or dropped. -/
theorem floatUniformLoad : Obligations.FloatUniformLoad := by
  unfold Obligations.FloatUniformLoad
  rintro s u k d setup need b hcanon hsetup rfl hn hb
  have hr := hostReg_regFuniData u k
  have hbuf : b = fun i => ((s.unit u).fuBuf.setIfInBounds (s.unit u).fuN d)[i] :=
    funext fun i => (hb i).trans (getElem_setIfInBounds_eq _ _ d i.val i.isLt).symm
  have hindex : (field setup 0 8).toNat = setup.toNat % 256 := toNat_field_zero setup 8
  generalize hs' : s.hregWrite (regFuniData u + k.val) d = s'
  have hunit : ∀ v, s'.unit v = s.unit v := hs' ▸ State.unit_hregWrite s _ d
  have hlog : s'.log = s.log := hs' ▸ rfl
  have hsetup' : s'.hregRead (regFuniSetup u) = setup :=
    (hs' ▸ hregRead_plain_hregWrite s (hostReg_regFuniSetup u) hr nofun d).trans hsetup
  have hwrite : s.writeReg (regFuniData u + k.val) d 15 = .next (s'.loadFuni u d) :=
    hs' ▸ writeReg_special_full s hr nofun d
  have hshared : s'.gsShared = s.gsShared := hs' ▸ gsShared_hregWrite s hr nofun d
  have hcanon' : HregCanonical s'.hreg := hs' ▸ hregWrite_canonical s _ d hcanon
  rw [hwrite, ← hindex, hbuf]
  refine ⟨fun h => ?waiting, fun h hlt => ?stored, fun h hge => ?dropped⟩
  case waiting =>
    rw [loadFuni_waiting hsetup' d (hunit u ▸ h)]
    have hsame := unit_assembled_same s' u d ((s'.unit u).fuN + 1)
    rw [hunit u] at hsame ⊢
    exact ⟨_, rfl, congrArg ShaderUnit.fuN hsame, fun i => congrArg (fun x => x.fuBuf[i]) hsame,
      (hregRead_assembled ..).trans hsetup', fun v => (c_assembled ..).trans (congrArg ShaderUnit.c (hunit v)),
      (log_assembled ..).trans hlog⟩
  case stored =>
    rw [loadFuni_stored hsetup' d (hunit u ▸ h) hlt]
    generalize hvalue : funiValue _ _ = value
    obtain ⟨hcounter, hlog', hstored⟩ := mirrored_hregWrite (s := s'.assembled u d 0)
      (f := fun x => { x with c := x.c.setIfInBounds (field setup 0 8).toNat value })
      (put := fun w x => x.putUniform w (field setup 0 8).toNat value) (fun _ _ => rfl) u
      (hreg_assembled s' u d 0 ▸ hcanon') (regFuniSetup u) (field setup 8 24 ++ (field setup 0 8 + 1#8))
    rw [gsShared_assembled, hshared] at hstored
    have hc (v : UnitId) (j : Fin 96) := getElem_c_of_stored (hstored v) j
    refine ⟨_, rfl, ?fuN, fun v j hj => ?here, fun v j hj => ?elsewhere, ?counter,
      hlog'.trans ((log_assembled ..).trans hlog)⟩
    case fuN => rw [hstored u, if_pos (.inl rfl), unit_assembled_same]
    case here =>
      rw [hc v j, if_pos hj, ← hvalue, hunit u]
      exact uniformFrom_funiValue _ _
    case elsewhere => rw [hc v j, if_neg hj, c_assembled, hunit v]
    case counter => rw [hcounter, toNat_nextSetup hlt]
  case dropped =>
    rw [loadFuni_dropped hsetup' d (hunit u ▸ h) hge]
    exact ⟨_, rfl, congrArg ShaderUnit.fuN (unit_assembled_same s' u d 0), (hregRead_assembled ..).trans hsetup',
      fun v => (c_assembled s' u d 0 v).trans (congrArg ShaderUnit.c (hunit v)),
      congrArg (· ++ _) ((log_assembled ..).trans hlog)⟩

end Sys2Proof.Machine

/-! SUPPORT. Command lists (46_host_port.md R240 to R243, R254): the words of a logical command, the extra words with the
cursor behind them, and the sub-list triggers. -/

namespace Sys2Proof.Machine

open Sys2Proof.Claims

/-! ### The words of a command -/

theorem withGuestWord_of_mapped {s : State} {a : Nat} {w : Word} (h : memReadWord s.guest a = some w)
    (f : Word → Result) : s.withGuestWord a f = f w := by
  unfold State.withGuestWord; rw [h]

/-- The run of extra words that a header announces, in its bits (R240). -/
theorem headerBurst_eq (header : Word) : headerBurst header =
    if header.toNat / 2 ^ 20 % 256 = 0 then none
    else some ⟨header.toNat % 65536, header.extractLsb' 16 4, header.getLsbD 31, 1, header.toNat / 2 ^ 20 % 256⟩ := by
  unfold headerBurst
  rw [toNat_field, toNat_field_zero]
  rfl

theorem firstWrite_of_mapped {s : State} {c : CmdWalk} {cur : Nat} {value header : Word}
    (hvalue : memReadWord s.guest (c.head + 4 * cur) = some value)
    (hheader : memReadWord s.guest (c.head + 4 * (cur + 1)) = some header) :
    s.firstWrite c cur = { s with cl := some { c with cur := cur + 2, burst := headerBurst header } }.writeReg
      (header.toNat % 65536) value (field header 16 4) := by
  unfold State.firstWrite
  rw [withGuestWord_of_mapped hvalue, withGuestWord_of_mapped hheader, toNat_field_zero]
  rfl

/-- The last extra word leaves no run (R240). -/
theorem rest_of_pos {b : Burst} (h : 1 ≤ b.left) :
    b.rest = if b.left = 1 then none else some { b with next := b.next + 1, left := b.left - 1 } := by
  rw [rest_eq]
  exact if_congr (by omega) rfl rfl

section
variable {s : State} {c : CmdWalk}

theorem listNext_of_burst {b : Burst} (hb : c.burst = some b) : s.listNext c = s.extraWrite c b := by
  unfold State.listNext; rw [hb]

theorem listNext_of_command (hb : c.burst = none) (hcur : c.cur < c.len) :
    s.listNext c = s.firstWrite c (c.cur + c.cur % 2) := by
  unfold State.listNext; rw [hb]; exact if_pos hcur

theorem listNext_of_end (hb : c.burst = none) (hcur : c.len ≤ c.cur) : s.listNext c = .next { s with cl := none } := by
  unfold State.listNext; rw [hb]; exact if_neg (Nat.not_lt.mpr hcur)

/-- An extra word is a register write with the cursor moved behind it (R240). -/
theorem extraWrite_of_mapped {b : Burst} {word : Word} (hcur : c.cur < c.len)
    (hword : memReadWord s.guest (c.head + 4 * c.cur) = some word) :
    s.extraWrite c b = seqR ({ s with cl := some { c with burst := b.rest } }.writeReg
      (if b.group then b.id + b.next else b.id) word b.mask) fun t => .next t.cursorNext := by
  unfold State.extraWrite
  rw [if_pos hcur, withGuestWord_of_mapped hword]

end

/-! ### Sub-lists (R254) -/

theorem hostReg_regSublistTrigger (n : Fin 2) : hostReg (regSublistTrigger n) = .sublistTrigger n := by
  revert n; decide

theorem hostReg_regSublistAddr (n : Fin 2) : hostReg (regSublistAddr n) = .plain := by
  revert n; decide

theorem hostReg_regSublistSize (n : Fin 2) : hostReg (regSublistSize n) = .plain := by
  revert n; decide

/-- The walk at the start of the list that a pair of sub-list registers names, in units of 8 bytes (R254). -/
def State.sublist (s : State) (n : Fin 2) : CmdWalk :=
  ⟨8 * (s.hregRead (regSublistAddr n)).toNat, 2 * (s.hregRead (regSublistSize n)).toNat, 0, none⟩

theorem triggerSublist_of_no_burst {s : State} (h : ∀ c, s.cl = some c → c.burst = none) (n : Fin 2) :
    s.triggerSublist n = .next { s with cl := some (s.sublist n) } := by
  refine (triggerSublist_eq_next s _ n).mpr ⟨h, ?_⟩
  unfold State.sublist
  rw [Nat.mul_comm 8, Nat.mul_comm 2]

theorem triggerSublist_of_burst {s : State} {c : CmdWalk} {b : Burst} (hc : s.cl = some c) (hb : c.burst = some b)
    (n : Fin 2) : s.triggerSublist n = .refused .sublistNotLast := by
  unfold State.triggerSublist
  rw [hc]
  exact if_pos (by rw [hb]; rfl)

section
variable (s : State) (n : Fin 2) (value : Word) (mask : BitVec 4)

theorem sublist_hregWrite (w : Word) : (s.hregWrite (regSublistTrigger n) w).sublist n = s.sublist n := by
  have hr := hostReg_regSublistTrigger n
  unfold State.sublist
  rw [hregRead_plain_hregWrite s (hostReg_regSublistAddr n) hr nofun,
    hregRead_plain_hregWrite s (hostReg_regSublistSize n) hr nofun]

/-- A write to a trigger outside a run of extra words re-targets the walk, beside the store (R246, R254). -/
theorem writeReg_trigger_of_no_burst (h : ∀ c, s.cl = some c → c.burst = none) :
    ∃ t, s.writeReg (regSublistTrigger n) value mask = .next t ∧
      t = { s with cl := some (s.sublist n), hreg := t.hreg } ∧ OtherRegsSame s t (regSublistTrigger n) := by
  have hwrite : s.writeReg (regSublistTrigger n) value mask =
      .next { s.hregWrite (regSublistTrigger n) (mergeMasked (s.hregRead (regSublistTrigger n)) value mask) with
        cl := some (s.sublist n) } := by
    rw [writeReg_special s (hostReg_regSublistTrigger n) nofun, State.sideEffect,
      triggerSublist_of_no_burst (s := s.hregWrite _ _) h, sublist_hregWrite]
  exact ⟨_, hwrite, rfl, otherRegsSame_hregWrite s (regSublistTrigger n) _⟩

theorem writeReg_trigger_of_burst {c : CmdWalk} {b : Burst} (hc : s.cl = some c) (hb : c.burst = some b) :
    s.writeReg (regSublistTrigger n) value mask = .refused .sublistNotLast := by
  rw [writeReg_special s (hostReg_regSublistTrigger n) nofun, State.sideEffect]
  exact triggerSublist_of_burst (s := s.hregWrite _ _) hc hb n

end

/-- Settles O58: the words of a command by its cursor, and the trigger as the register write of a command or of its last
extra word. -/
theorem commandListDecode : Obligations.CommandListDecode := by
  unfold Obligations.CommandListDecode
  refine ⟨fun s c value header hb hcur hvalue hheader => ?command, fun s c b word hb hleft hcur hword r hr => ?extra,
    fun s c b n word hb hleft hcur hword hid => ?lastTrigger, fun s c => listNext_of_end,
    fun s n value mask => ⟨writeReg_trigger_of_no_burst s n value mask,
      fun c b => writeReg_trigger_of_burst s n value mask⟩⟩
  case command =>
    rw [listNext_of_command hb hcur, firstWrite_of_mapped hvalue hheader, headerBurst_eq]
    rfl
  case extra =>
    rw [listNext_of_burst hb, extraWrite_of_mapped hcur hword, rest_of_pos hleft, ← hr]
    exact ⟨fun t h => by rw [h, seqR_next, State.cursorNext], fun e h => by rw [h, seqR_refused],
      fun e h => by rw [h, seqR_fault]⟩
  case lastTrigger =>
    rw [listNext_of_burst hb, extraWrite_of_mapped hcur hword, rest_of_pos hleft.ge, if_pos hleft, ← hid]
    obtain ⟨t, ht, hframe, hothers⟩ := writeReg_trigger_of_no_burst { s with cl := some { c with burst := none } } n word
      b.mask fun c' hc' => by cases hc'; rfl
    rw [ht]
    refine ⟨_, rfl, hothers, ?_⟩
    rw [hframe]
    rfl

end Sys2Proof.Machine

/-! SUPPORT. Draws and immediate mode (46_host_port.md R257 to R260): the start of a draw and its elements, and the
registers of the default attributes. -/

namespace Sys2Proof.Machine

open Sys2Proof.Claims

/-! ### The start of a draw (R257, R258) -/

theorem isReceived_received (x : LoaderVertex) : IsReceived x x.received :=
  ⟨rfl, fun i => (getElem_loadedFile x.attrs i).symm ▸ isValueOf_loadedValue x.attrs[i]⟩

theorem forall₂_isReceived (supply : List LoaderVertex) :
    List.Forall₂ IsReceived supply (supply.map LoaderVertex.received) :=
  List.forall₂_map_right_iff.mpr (List.forall₂_same.mpr fun x _ => isReceived_received x)

section
variable {s u : State} {indexed : Bool}

theorem startDraw_of_refused {e : Refusal} (h : s.reconfigure = .refused e) : s.startDraw indexed = .refused e := by
  unfold State.startDraw; rw [h, seqR_refused]

theorem startDraw_of_missing_index (h : s.reconfigure = .next u) (hneed : u.gp.needIndex = true)
    (hindexed : indexed = false) : s.startDraw indexed = .refused .indexProtocol := by
  unfold State.startDraw
  rw [h, seqR_next, hneed, hindexed]
  rfl

theorem loader_reconfigure (h : s.reconfigure = .next u) : u.loader = s.loader := by
  obtain ⟨-, b, -, rfl⟩ := (reconfigure_eq_next s u).mp h
  rfl

theorem startDraw_of_next (h : s.reconfigure = .next u) (hok : u.gp.needIndex = false ∨ indexed = true) :
    s.startDraw indexed =
      .next { u with draw := some ⟨indexed, u.takeSupply.1⟩, loader := s.loader.tail } := by
  refine (startDraw_eq_next s _ indexed).mpr ⟨u, h, ?_, ?_⟩
  · rcases hok with hok | hok <;> rw [hok]
    · rfl
    · exact Bool.and_false _
  · rw [← loader_reconfigure h]; rfl

end

/-- Both draw registers store first, then start the draw (R246, R257). -/
theorem writeReg_draw (s : State) {id : Nat} {indexed : Bool}
    (h : id = regDraw ∧ indexed = false ∨ id = regDrawIndexed ∧ indexed = true) (value : Word) (mask : BitVec 4) :
    s.writeReg id value mask =
      (s.hregWrite id (mergeMasked (s.hregRead id) value mask)).startDraw indexed := by
  rcases h with ⟨rfl, rfl⟩ | ⟨rfl, rfl⟩
  · exact writeReg_special s (r := .draw) rfl nofun value mask
  · exact writeReg_special s (r := .drawIndexed) rfl nofun value mask

theorem drawStartRule : DrawStartRule := by
  unfold DrawStartRule
  intro s id indexed value mask hid
  rw [writeReg_draw s hid]
  refine ⟨s.hregWrite id _, rfl, otherRegsSame_hregWrite s id _, fun e => startDraw_of_refused, fun u hu =>
    ⟨startDraw_of_missing_index hu, fun hok => ?_⟩⟩
  refine ⟨u.loader.headD (freeSupply u.fresh), _, forall₂_isReceived _, startDraw_of_next hu hok, fun first rest hl => ?_⟩
  rw [loader_reconfigure hu, State.loader_hregWrite, hl, List.headD_cons]

/-! ### The elements of a draw (R257, R259) -/

section
variable {s : State} {d : DrawWalk} {item : LoaderVertex} {rest : List LoaderVertex} (hitems : d.items = item :: rest)
include hitems

theorem drawNext_index (hindexed : d.indexed = true) (hneed : s.gp.needIndex = true) :
    s.drawNext d = { s with draw := some { d with items := rest } }.gpSubmitIndex item.index := by
  unfold State.drawNext
  rw [hitems]
  exact if_pos (by rw [hindexed, hneed]; rfl)

theorem drawNext_vertex (h : d.indexed = false ∨ s.gp.needIndex = false) :
    s.drawNext d = .next ({ s with draw := some { d with items := rest } }.startVs item.attrs) := by
  unfold State.drawNext
  rw [hitems]
  refine if_neg (Bool.not_eq_true _ ▸ ?_)
  rcases h with h | h <;> rw [h]
  · rfl
  · exact Bool.and_false _

end

theorem drawNext_of_end {s : State} {d : DrawWalk} (hitems : d.items = []) :
    s.drawNext d = .next { s with draw := none } := by
  unfold State.drawNext; rw [hitems]

/-! ### The index of the default attributes (R260) -/

theorem field_eq_fifteen (w : Word) : field w 0 4 = 0xF#4 ↔ w.toNat % 16 = 15 := by
  rw [← BitVec.toNat_inj, toNat_field_zero]
  rfl

theorem defaultAttributeIndexRule : DefaultAttributeIndexRule := by
  unfold DefaultAttributeIndexRule
  intro s value mask hcanon
  have hwrite := writeReg_special s (id := regDefattrIndex) (r := .defattrIndex) rfl nofun value mask
  have hmerged := isMerged_hregWrite hcanon regDefattrIndex value mask
  have hothers := otherRegsSame_hregWrite s regDefattrIndex (mergeMasked (s.hregRead regDefattrIndex) value mask)
  have hread := hregRead_hregWrite_same s regDefattrIndex (mergeMasked (s.hregRead regDefattrIndex) value mask) hcanon
  generalize mergeMasked (s.hregRead regDefattrIndex) value mask = m at *
  have hindex : ((s.hregWrite regDefattrIndex m).hregRead regDefattrIndex).toNat % 16 = 15 ↔ field m 0 4 = 0xF#4 := by
    rw [hread, field_eq_fifteen]
  rw [State.sideEffect] at hwrite
  by_cases hm : field m 0 4 = 0xF#4
  · rw [if_pos hm] at hwrite
    exact ⟨_, hwrite, hothers, hmerged, (if_pos (hindex.mpr hm)).symm⟩
  · rw [if_neg hm] at hwrite
    exact ⟨_, hwrite, hothers, hmerged, (if_neg (mt hindex.mp hm)).symm⟩

/-! ### Registers that hold a configuration -/

/-- The plain registers of `t` read as those of `s`; they hold all that configures the units and the pipeline (R256). -/
def SameConfig (s t : State) : Prop := ∀ k, hostReg k = .plain → t.hregRead k = s.hregRead k

section
variable {s t : State} (h : SameConfig s t)
include h

theorem numIn_of_sameConfig (u : UnitId) : t.numIn u = s.numIn u :=
  congrArg (fun w => (field w 0 4).toNat + 1) (h (regInNum u) (by cases u <;> rfl))

theorem entry_of_sameConfig (u : UnitId) : t.entry u = s.entry u :=
  congrArg (fun w => (field w 0 16).toNat) (h (regEntry u) (by cases u <;> rfl))

theorem inMap_of_sameConfig (u : UnitId) : t.inMap u = s.inMap u := by
  funext i
  unfold State.inMap
  rw [h (regInMap u) (by cases u <;> rfl), h (regInMap u + 1) (by cases u <;> rfl)]

theorem selectBackend_of_sameConfig (hfresh : t.fresh = s.fresh) : t.selectBackend = s.selectBackend := by
  unfold State.selectBackend State.useGs State.gsMode State.vsOutNum State.fixedStart State.fixedVertexNum
  rw [numIn_of_sameConfig h, h regGsUse rfl, h regGsConfig rfl, h regVsOutNum rfl, hfresh]

/-- Reconfigure gives the same backend from the same configuration (R210). -/
theorem reconfigure_of_sameConfig (hfresh : t.fresh = s.fresh) (hgp : t.gp = s.gp) {u : State}
    (hu : s.reconfigure = .next u) : t.reconfigure = .next { t with gp := u.gp, fresh := u.fresh } := by
  obtain ⟨hempty, b, hb, rfl⟩ := (reconfigure_eq_next s u).mp hu
  exact (reconfigure_eq_next t _).mpr ⟨hgp ▸ hempty, b, (selectBackend_of_sameConfig h hfresh).trans hb, by rw [hfresh]⟩

end

/-! ### Immediate mode (R260) -/

section
variable {s : State} {v : Vec4} {A : Vector Vec4 16} (hA : s.immBuf.setIfInBounds s.immN v = A)
include hA

theorem immediateAttr_waiting (h : s.immN + 1 < s.numIn .vs) :
    s.immediateAttr v = .next { s with immBuf := A, immN := s.immN + 1 } := by
  subst hA; exact if_neg (Nat.not_le.mpr h)

/-- With the last vec4 of the vertex the vertex unit starts on the buffer, once the backend is there. -/
theorem immediateAttr_complete (h : s.numIn .vs ≤ s.immN + 1) : s.immediateAttr v =
    seqR (if s.immFirst then { s with immBuf := A, immN := 0, immFirst := false }.reconfigure
      else .next { s with immBuf := A, immN := 0, immFirst := false }) fun x =>
        if x.gp.needIndex then .refused .indexProtocol else .next (x.startVs A) := by
  subst hA
  refine (if_pos h).trans ?_
  cases s.immFirst <;> rfl

end

/-- The backend with which an immediate-mode vertex runs: the present one, or for the first vertex after a write of 0xF
the one that Reconfigure makes of the configuration of `s`. -/
theorem immediate_backend {s x : State} (hcfg : SameConfig s x) (hgp : x.gp = s.gp) (hfresh : x.fresh = s.fresh)
    {g : Backend}
    (hg : s.immFirst = false ∧ g = s.gp ∨ s.immFirst = true ∧ ∃ u, s.reconfigure = .next u ∧ u.gp = g) :
    ∃ n, (if s.immFirst then x.reconfigure else .next x) = .next { x with gp := g, fresh := n } := by
  rcases hg with ⟨hlater, rfl⟩ | ⟨hfirst, u, hu, rfl⟩
  · exact ⟨x.fresh, by rw [hlater, ← hgp]; rfl⟩
  · exact ⟨u.fresh, by rw [hfirst]; exact reconfigure_of_sameConfig hcfg hfresh hgp hu⟩

/-- A completed vec4 of immediate mode, in a state that differs from `s` in the words of the default attributes and in
special registers. -/
theorem immediateRule_immediateAttr {s : State} {buf : Vector Word 3} {regs : WordStore} {v : Vec4} {A : Vector Vec4 16}
    (hcfg : SameConfig s { s with daN := 0, daBuf := buf, hreg := regs }) (hA : s.immBuf.setIfInBounds s.immN v = A) :
    ImmediateRule s ({ s with daN := 0, daBuf := buf, hreg := regs }.immediateAttr v) A := by
  have hnumIn := numIn_of_sameConfig hcfg .vs
  refine ⟨fun h => ⟨_, immediateAttr_waiting hA (hnumIn ▸ h), rfl⟩, fun h g hg => ?_⟩
  obtain ⟨n, hx⟩ := immediate_backend
    (x := { s with daN := 0, daBuf := buf, hreg := regs, immBuf := A, immN := 0, immFirst := false }) hcfg rfl rfl hg
  have hattr := (immediateAttr_complete (s := { s with daN := 0, daBuf := buf, hreg := regs }) hA (hnumIn ▸ h)).trans
    (congrArg (fun r => seqR r _) hx)
  exact ⟨fun hneed => hattr.trans (if_pos hneed), fun hneed => ⟨_, 
    hattr.trans (if_neg fun e => Bool.false_ne_true (hneed.symm.trans e)), rfl, rfl, rfl, rfl, rfl,
    entry_of_sameConfig hcfg .vs, congrArg₂ (loadInput s.vs.v A) (inMap_of_sameConfig hcfg .vs) hnumIn, rfl, rfl, rfl,
    rfl⟩⟩

/-! ### The data of the default attributes (R260) -/

theorem hostReg_regDefattrData (k : Fin 3) : hostReg (regDefattrData + k.val) = .defattrData := by
  revert k; decide

theorem vec4_eq_of_comp {a b : Vec4} (h : ∀ k, comp a k = comp b k) : a = b := by
  obtain ⟨hx, hy, hz, hw⟩ : a.x = b.x ∧ a.y = b.y ∧ a.z = b.z ∧ a.w = b.w := ⟨h 0, h 1, h 2, h 3⟩
  cases a; cases b
  simp_all only

/-- Three words hold one vec4 of raw encodings (R251). -/
theorem unpackRaw_eq_of_isUnpacked {w0 w1 w2 : Word} {v : Vec4} (h : IsUnpacked w0 w1 w2 v) : unpackRaw w0 w1 w2 = v :=
  vec4_eq_of_comp fun k => BitVec.eq_of_toNat_eq ((isUnpacked_unpackRaw w0 w1 w2 k).trans (h k).symm)

section
variable {s : State} {d : Word} {buf : Vector Word 3} (hbuf : s.daBuf.setIfInBounds s.daN d = buf)
include hbuf

theorem loadDefattr_waiting (hn : s.daN < 2) :
    s.loadDefattr d = .next { s with daBuf := buf, daN := s.daN + 1 } := by
  subst hbuf; exact if_neg (by omega)

variable {v : Vec4} (hv : unpackRaw buf[0] buf[1] buf[2] = v) (hn : s.daN = 2) {w : Word}
  (hw : s.hregRead regDefattrIndex = w)
include hv hn hw

theorem loadDefattr_stored (hindex : (field w 0 4).toNat < 12) : s.loadDefattr d =
    .next ({ s with
      daBuf := buf, daN := 0, defaultAttrs := s.defaultAttrs.set (field w 0 4).toNat v hindex }.hregWrite regDefattrIndex
        (field w 4 28 ++ (field w 0 4 + 1#4))) := by
  subst hbuf hv hw; exact (if_pos (by omega)).trans (dif_pos hindex)

theorem loadDefattr_immediate (hindex : field w 0 4 = 0xF#4) :
    s.loadDefattr d = { s with daBuf := buf, daN := 0 }.immediateAttr v := by
  have hlarge : ¬ (field w 0 4).toNat < 12 := by rw [hindex]; decide
  subst hbuf hv hw; exact (if_pos (by omega)).trans ((dif_neg hlarge).trans (if_pos hindex))

theorem loadDefattr_dropped (hlarge : ¬ (field w 0 4).toNat < 12) (hindex : field w 0 4 ≠ 0xF#4) : s.loadDefattr d =
    .next ({ s with daBuf := buf, daN := 0 }.raise (.badDefaultAttrIndex (field w 0 4).toNat)) := by
  subst hbuf hv hw; exact (if_pos (by omega)).trans ((dif_neg hlarge).trans (if_neg hindex))

end

/-- An index below 12 goes on by one within its four bits (R260). -/
theorem toNat_nextIndex {w : Word} (h : (field w 0 4).toNat < 12) :
    (field w 4 28 ++ (field w 0 4 + 1#4)).toNat = w.toNat + 1 := by
  have hlt := w.isLt
  have hfield := toNat_field_zero w 4
  have hnext : (field w 0 4 + 1#4).toNat = (field w 0 4).toNat + 1 := by
    rw [BitVec.toNat_add, BitVec.toNat_ofNat]; omega
  rw [toNat_append_eq_add, toNat_field, hnext]
  omega

theorem setIfInBounds_eq_of_getElem {n : Nat} {file A : Vector Vec4 n} {i : Nat} {v : Vec4}
    (h : ∀ j : Fin n, A[j] = if j.val = i then v else file[j]) : file.setIfInBounds i v = A :=
  Vector.ext fun j hj => (Vector.getElem_setIfInBounds hj).trans ((if_congr eq_comm rfl rfl).trans (h ⟨j, hj⟩).symm)

theorem defaultAttributeDataRule : DefaultAttributeDataRule := by
  unfold DefaultAttributeDataRule
  rintro s k d b index hcanon hn rfl hb
  have hr := hostReg_regDefattrData k
  have hindex : (field (s.hregRead regDefattrIndex) 0 4).toNat = (s.hregRead regDefattrIndex).toNat % 16 :=
    toNat_field_zero _ 4
  have hcanon' := hregWrite_canonical s (regDefattrData + k.val) d hcanon
  obtain ⟨buf, hbuf⟩ : ∃ buf, s.daBuf.setIfInBounds s.daN d = buf := ⟨_, rfl⟩
  obtain rfl : b = fun i => buf[i] := funext fun i => (hb i).trans <| by
    rw [← hbuf]; exact (getElem_setIfInBounds_eq s.daBuf s.daN d i.val i.isLt).symm
  have hothers := otherRegsSame_hregWrite s (regDefattrData + k.val) d
  have hw := hothers regDefattrIndex (ne_of_hostReg (by rw [hr]; nofun))
  rw [writeReg_special_full s hr nofun, State.sideEffect, ← hindex]
  refine ⟨fun hwait => ⟨_, loadDefattr_waiting (s := s.hregWrite _ d) hbuf hwait, rfl, fun _ => rfl, hothers⟩,
    fun hfull v hv => ?complete⟩
  have hunpack := unpackRaw_eq_of_isUnpacked hv
  refine ⟨fun hlt => ?stored, fun hge hlt => ?dropped, fun h15 _ A hA => ?immediate⟩
  case stored =>
    refine ⟨_, loadDefattr_stored (s := s.hregWrite _ d) hbuf hunpack hfull hw hlt, rfl, fun j => ?attrs, ?next⟩
    case attrs => exact (Vector.getElem_set hlt _).trans (if_congr eq_comm rfl rfl)
    case next => exact (congrArg BitVec.toNat (hregRead_hregWrite_same _ _ _ hcanon')).trans (toNat_nextIndex hlt)
  case dropped =>
    exact ⟨_, loadDefattr_dropped (s := s.hregWrite _ d) hbuf hunpack hfull hw (by omega)
      (mt (field_eq_fifteen _).mp (by omega)), rfl, hothers⟩
  case immediate =>
    have h15' := (field_eq_fifteen _).mpr (hindex ▸ h15)
    rw [loadDefattr_immediate (s := s.hregWrite _ d) hbuf hunpack hfull hw h15']
    exact immediateRule_immediateAttr (regs := (s.hregWrite (regDefattrData + k.val) d).hreg)
      (fun k' hk' => hregRead_plain_hregWrite s hk' hr nofun d) (setIfInBounds_eq_of_getElem hA)

/-- Settles O59: each rule of draws and immediate mode by its register or element. -/
theorem drawSequencing : Obligations.DrawSequencing := by
  unfold Obligations.DrawSequencing
  refine ⟨drawStartRule, fun s d item rest hitems => ⟨drawNext_index hitems, fun h => ?vertex⟩,
    fun s d => drawNext_of_end, defaultAttributeIndexRule, defaultAttributeDataRule⟩
  case vertex => exact ⟨_, drawNext_vertex hitems h, rfl, rfl, rfl, rfl, rfl, rfl, rfl, rfl, rfl, rfl, rfl⟩

end Sys2Proof.Machine

/-! SUPPORT. The instructions as functions of the executing unit (43_flow_control.md R170, 60_exceptions.md R271, R277,
R281): every one but EMIT and SETEMIT is a function of that unit and of the host registers, which stops on a full call
stack alone. -/

namespace Sys2Proof.Machine

open Sys2Proof.Claims

/-! ### Results and what they leave of the executing unit -/

/-- The result `r` of an instruction in `s` is the completion with the unit and the anomalies that are given, or, where
none are, the stack overflow of a full stack (R172). -/
def Answers (r : Result) (s : State) : Option (ShaderUnit × List Anomaly) → Prop
  | some (x, l) => Completes r s x l
  | none => ¬ HasRoom s ∧ r = .fault .callStackOverflow

/-- What an instruction does to a unit that holds `x`, given which of the two it is and what the host registers read. -/
abbrev UnitAct := UnitId → (Nat → Word) → ShaderUnit → Option (ShaderUnit × List Anomaly)

/-- The meaning `m` of an instruction reads the executing unit and the host registers alone, and writes no more than
that unit and the log. -/
def ActsOnUnit (m : State → Result) : Prop :=
  ∃ act : UnitAct, ∀ s, Answers (m s) s (act s.cur s.hregRead s.curUnit)

theorem Completes.not_fault {r : Result} {s : State} {x : ShaderUnit} {l : List Anomaly} (h : Completes r s x l)
    (e : Fault) : r ≠ .fault e := by
  obtain ⟨t, rfl, -⟩ := h
  nofun

/-- What a completion leaves as the executing unit. -/
theorem Completes.unit_cur {s t : State} {x : ShaderUnit} {l : List Anomaly} (h : Completes (.next t) s x l) :
    t.unit s.cur = x := by
  obtain ⟨_, ht, hstate, -⟩ := h
  cases ht
  rw [hstate]
  exact State.unit_setUnit_same s s.cur x

section
variable {m : State → Result} {s s' t : State}

theorem ActsOnUnit.completes (hm : ActsOnUnit m) (hroom : HasRoom s) : ∃ t, m s = .next t := by
  obtain ⟨act, hact⟩ := hm
  have hs := hact s
  match act s.cur s.hregRead s.curUnit, hs with
  | some (x, l), ⟨t, ht, _⟩ => exact ⟨t, ht⟩
  | none, ⟨hfull, _⟩ => exact absurd hroom hfull

theorem ActsOnUnit.fault_is_overflow (hm : ActsOnUnit m) {e : Fault} (h : m s = .fault e) :
    e = .callStackOverflow ∧ ¬ HasRoom s := by
  obtain ⟨act, hact⟩ := hm
  have hs := hact s
  match act s.cur s.hregRead s.curUnit, hs with
  | some (x, l), hcompletes => exact absurd h (Completes.not_fault hcompletes e)
  | none, ⟨hfull, hfault⟩ => exact ⟨Host.Outcome.fault.inj (h.symm.trans hfault), hfull⟩

/-- In two states that agree on the executing unit and on the host registers such an instruction completes alike. -/
theorem ActsOnUnit.same_unit (hm : ActsOnUnit m) (hcur : s'.cur = s.cur) (hunit : s'.curUnit = s.curUnit)
    (hhreg : s'.hreg = s.hreg) (h : m s = .next t) : ∃ t', m s' = .next t' ∧ t'.unit s.cur = t.unit s.cur := by
  obtain ⟨act, hact⟩ := hm
  have hread : s'.hregRead = s.hregRead := funext fun id => hregRead_congr s' s id hhreg
  have hs := h ▸ hact s
  have hs' := hact s'
  rw [hcur, hunit, hread] at hs'
  match act s.cur s.hregRead s.curUnit, hs, hs' with
  | some (x, l), hleft, ⟨t', ht', hleft'⟩ =>
    have hunit' : t'.unit s'.cur = x := Completes.unit_cur ⟨t', rfl, hleft'⟩
    rw [hcur] at hunit'
    exact ⟨t', ht', hunit'.trans (Completes.unit_cur hleft).symm⟩
  | none, ⟨_, hfault⟩, _ => nomatch hfault

end

/-! ### The shapes of the instructions -/

theorem actsOnUnit_setCur (g : UnitId → (Nat → Word) → ShaderUnit → ShaderUnit) :
    ActsOnUnit fun s => .next (s.setCur (g s.cur s.hregRead s.curUnit)) :=
  ⟨fun u regs x => some (g u regs x, []), fun s => completes_setCur s _⟩

/-- An arithmetic instruction with a destination whose value is `f` of the operand descriptor and the unit (R130). -/
theorem actsOnUnit_finish (f : Word → ShaderUnit → Vec4) (dest : Dest) (desc : Nat) :
    ActsOnUnit fun s => s.finish dest (s.descriptor desc) (f (s.descriptor desc) s.curUnit) :=
  actsOnUnit_setCur fun u _ x =>
    { writeDest x dest (descMask (swzWord u x desc)) (f (swzWord u x desc) x) with pc := x.pc + 1 }

theorem actsOnUnit_runFormat1 (f : Vec4 → Vec4 → Vec4) (dest : Dest) (idx : AddrIdx) (src1 : WideSrc) (src2 : NarrowSrc)
    (desc : BitVec 7) : ActsOnUnit (runFormat1 f dest idx src1 src2 desc) :=
  actsOnUnit_finish (fun d x => f (source1 d (readWide x idx src1)) (source2 d (readNarrow x src2))) dest desc.toNat

theorem actsOnUnit_runFormat1i (f : Vec4 → Vec4 → Vec4) (dest : Dest) (idx : AddrIdx) (src1 : NarrowSrc) (src2 : WideSrc)
    (desc : BitVec 7) : ActsOnUnit (runFormat1i f dest idx src1 src2 desc) :=
  actsOnUnit_finish (fun d x => f (source1 d (readNarrow x src1)) (source2 d (readWide x idx src2))) dest desc.toNat

theorem actsOnUnit_runFormat1u (f : Vec4 → Vec4) (dest : Dest) (idx : AddrIdx) (src1 : WideSrc) (desc : BitVec 7) :
    ActsOnUnit (runFormat1u f dest idx src1 desc) :=
  actsOnUnit_finish (fun d x => f (source1 d (readWide x idx src1))) dest desc.toNat

theorem actsOnUnit_runFormat5 (f : Vec4 → Vec4 → Vec4 → Vec4) (dest : Dest) (idx : AddrIdx) (src1 : NarrowSrc)
    (src2 : WideSrc) (src3 : NarrowSrc) (desc : BitVec 5) : ActsOnUnit (runFormat5 f dest idx src1 src2 src3 desc) :=
  actsOnUnit_finish (fun d x => f (source1 d (readNarrow x src1)) (source2 d (readWide x idx src2))
    (source3 d (readNarrow x src3))) dest desc.toNat

theorem actsOnUnit_runFormat5i (f : Vec4 → Vec4 → Vec4 → Vec4) (dest : Dest) (idx : AddrIdx) (src1 src2 : NarrowSrc)
    (src3 : WideSrc) (desc : BitVec 5) : ActsOnUnit (runFormat5i f dest idx src1 src2 src3 desc) :=
  actsOnUnit_finish (fun d x => f (source1 d (readNarrow x src1)) (source2 d (readNarrow x src2))
    (source3 d (readWide x idx src3))) dest desc.toNat

theorem actsOnUnit_execMova (idx : AddrIdx) (src1 : WideSrc) (desc : BitVec 7) : ActsOnUnit (execMova idx src1 desc) :=
  actsOnUnit_setCur fun u _ x =>
    let d := swzWord u x desc.toNat
    let a := source1 d (readWide x idx src1)
    { x with
      a0x := if (descMask d).getLsbD 3 then ftoi a.x else x.a0x
      a0y := if (descMask d).getLsbD 2 then ftoi a.y else x.a0y
      pc := x.pc + 1 }

theorem actsOnUnit_execCmp (cmpx cmpy : CmpOp) (idx : AddrIdx) (src1 : WideSrc) (src2 : NarrowSrc) (desc : BitVec 7) :
    ActsOnUnit (execCmp cmpx cmpy idx src1 src2 desc) :=
  ⟨fun u _ x =>
    let d := swzWord u x desc.toNat
    let a := source1 d (readWide x idx src1)
    let b := source2 d (readNarrow x src2)
    some ({ x with ccx := newCode cmpx a.x b.x x.ccx, ccy := newCode cmpy a.y b.y x.ccy, pc := x.pc + 1 },
      badOpRecord x.pc cmpx ++ badOpRecord x.pc cmpy),
    fun s => completes_foldl_raise_setCur s _ _⟩

/-- A no-operation that records the anomaly `a` of its pc (R151, R186). -/
theorem actsOnUnit_raise_advance (a : Nat → Anomaly) :
    ActsOnUnit fun s => .next (s.raise (a s.curUnit.pc)).advance :=
  ⟨fun _ _ x => some ({ x with pc := x.pc + 1 }, [a x.pc]), fun s => completes_raise_advance s _⟩

theorem actsOnUnit_skipUnimplemented (opcode : Nat) : ActsOnUnit (State.skipUnimplemented · opcode) :=
  actsOnUnit_raise_advance (.unimplementedOpcode · opcode)

theorem actsOnUnit_skipUnknown (opcode : Nat) : ActsOnUnit (State.skipUnknown · opcode) :=
  actsOnUnit_raise_advance (.unknownOpcode · opcode)

theorem actsOnUnit_jump (target : ShaderUnit → Nat) : ActsOnUnit fun s => .next (s.jump (target s.curUnit)) :=
  actsOnUnit_setCur fun _ _ x => { x with pc := target x }

theorem actsOnUnit_advance : ActsOnUnit fun s => .next s.advance := actsOnUnit_jump (·.pc + 1)

/-- What pushes one frame, and so stops on a full stack (R172). -/
theorem actsOnUnit_push {m : State → Result} (g : UnitId → (Nat → Word) → ShaderUnit → ShaderUnit)
    (h : ∀ s, m s = if s.curUnit.stk.length < Config.callStackDepth then
      .next (s.setCur (g s.cur s.hregRead s.curUnit)) else .fault .callStackOverflow) : ActsOnUnit m := by
  refine ⟨fun u regs x => if x.stk.length < Config.callStackDepth then some (g u regs x, []) else none, fun s => ?_⟩
  rw [h]
  dsimp only
  split
  · exact completes_setCur s _
  · next hfull => exact ⟨hfull, rfl⟩

theorem actsOnUnit_pushFrame (f : ShaderUnit → Frame) (target : ShaderUnit → Nat) :
    ActsOnUnit fun s => s.pushFrame (f s.curUnit) (target s.curUnit) :=
  actsOnUnit_push (fun _ _ x => { x with stk := f x :: x.stk, pc := target x }) fun _ => rfl

theorem actsOnUnit_execLoop (n : Fin 4) (target : BitVec 12) : ActsOnUnit (execLoop n target) :=
  actsOnUnit_push (fun u regs x => { x with
      al := (intY (regs (regIuni u n))).setWidth 32
      stk := loopFrame x (regs (regIuni u n)) target :: x.stk
      pc := x.pc + 1 }) (execLoop_eq n target)

/-! ### Conditions of the unit and the uniforms -/

/-- A condition that the executing unit and the host registers decide (R173, R180). -/
abbrev UnitCond := UnitId → (Nat → Word) → ShaderUnit → Bool

/-- The condition of an instruction that reads the conditional codes (R173). -/
def codesCond (refx refy : Bool) (cond : CondOp) : UnitCond := fun _ _ x => evalCond x refx refy cond

/-- The condition of an instruction that reads a boolean uniform (R180). -/
def uniformCond (b : Fin 16) : UnitCond := fun u regs _ => flagAt (regs (regBuni u)) b.val

section
variable (c : UnitCond)

theorem ActsOnUnit.ite {m₁ m₂ : State → Result} (h₁ : ActsOnUnit m₁) (h₂ : ActsOnUnit m₂) :
    ActsOnUnit fun s => if c s.cur s.hregRead s.curUnit then m₁ s else m₂ s := by
  obtain ⟨act₁, hact₁⟩ := h₁
  obtain ⟨act₂, hact₂⟩ := h₂
  refine ⟨fun u regs x => if c u regs x then act₁ u regs x else act₂ u regs x, fun s => ?_⟩
  dsimp only
  split
  · exact hact₁ s
  · exact hact₂ s

theorem actsOnUnit_takeCall (target : BitVec 12) (num : BitVec 8) : ActsOnUnit (State.takeCall · target num) :=
  actsOnUnit_pushFrame (fun x => plainFrame (target.toNat + num.toNat) (x.pc + 1) target.toNat) fun _ => target.toNat

theorem actsOnUnit_callIf (target : BitVec 12) (num : BitVec 8) :
    ActsOnUnit fun s => if c s.cur s.hregRead s.curUnit then s.takeCall target num else .next s.advance :=
  (actsOnUnit_takeCall target num).ite c actsOnUnit_advance

theorem actsOnUnit_takeIf (target : BitVec 12) (num : BitVec 8) :
    ActsOnUnit fun s => s.takeIf (c s.cur s.hregRead s.curUnit) target num :=
  (actsOnUnit_pushFrame (fun x => plainFrame target.toNat (target.toNat + num.toNat) (x.pc + 1)) (·.pc + 1)).ite c
    (actsOnUnit_pushFrame (fun _ => plainFrame (target.toNat + num.toNat) (target.toNat + num.toNat) target.toNat)
      fun _ => target.toNat)

theorem actsOnUnit_jumpIf (target : BitVec 12) :
    ActsOnUnit fun s => .next (if c s.cur s.hregRead s.curUnit then s.jump target.toNat else s.advance) := by
  simp only [apply_ite Host.Outcome.next]
  exact (actsOnUnit_jump fun _ => target.toNat).ite c actsOnUnit_advance

end

/-! ### Every instruction -/

/-- Every instruction but the two of the geometry emitter is a function of its unit and the host registers. -/
theorem exec_actsOnUnit (i : Instr) : i = .emit ∨ (∃ v p w, i = .setemit v p w) ∨ ActsOnUnit (exec i) := by
  cases i
  case emit => exact .inl rfl
  case setemit v p w => exact .inr (.inl ⟨v, p, w, rfl⟩)
  all_goals refine .inr (.inr ?_)
  case add | mul | max | min | sge | slt => exact actsOnUnit_runFormat1 _ _ _ _ _ _
  case dp3 => exact actsOnUnit_runFormat1 (fun a b => Vec4.splat (fdot3 a b)) _ _ _ _ _
  case dp4 => exact actsOnUnit_runFormat1 (fun a b => Vec4.splat (fdot4 a b)) _ _ _ _ _
  case dph => exact actsOnUnit_runFormat1 (fun a b => Vec4.splat (fdot4 (homogeneous a) b)) _ _ _ _ _
  case dphi => exact actsOnUnit_runFormat1i (fun a b => Vec4.splat (fdot4 (homogeneous a) b)) _ _ _ _ _
  case sgei | slti => exact actsOnUnit_runFormat1i _ _ _ _ _ _
  case flr | mov | rcp | rsq | ex2 | lg2 => exact actsOnUnit_runFormat1u _ _ _ _ _
  case mad => exact actsOnUnit_runFormat5 _ _ _ _ _ _ _
  case madi => exact actsOnUnit_runFormat5i _ _ _ _ _ _ _
  case mova => exact actsOnUnit_execMova _ _ _
  case cmp => exact actsOnUnit_execCmp _ _ _ _ _ _
  case nop => exact actsOnUnit_advance
  case endProg => exact actsOnUnit_setCur fun _ _ x => { x with run := .halted }
  case jmpc refx refy cond target => exact actsOnUnit_jumpIf (codesCond refx refy cond) target
  case jmpu b target invert => exact actsOnUnit_jumpIf (fun u regs x => uniformCond b u regs x == !invert) target
  case call target num => exact actsOnUnit_takeCall target num
  case callc refx refy cond target num => exact actsOnUnit_callIf (codesCond refx refy cond) target num
  case callu b target num => exact actsOnUnit_callIf (uniformCond b) target num
  case ifc refx refy cond target num => exact actsOnUnit_takeIf (codesCond refx refy cond) target num
  case ifu b target num => exact actsOnUnit_takeIf (uniformCond b) target num
  case loop n target => exact actsOnUnit_execLoop n target
  case dst => exact actsOnUnit_skipUnimplemented 0x04
  case dsti => exact actsOnUnit_skipUnimplemented 0x19
  case lit => exact actsOnUnit_skipUnimplemented 0x07
  case brk => exact actsOnUnit_skipUnimplemented 0x20
  case breakc => exact actsOnUnit_skipUnimplemented 0x23
  all_goals exact actsOnUnit_skipUnknown _

/-! ### Completion and faults -/

theorem execSetemit_ne_fault (v : BitVec 2) (p w : Bool) (s : State) (e : Fault) : execSetemit v p w s ≠ .fault e := by
  unfold execSetemit
  split <;> nofun

theorem execEmit_ne_fault (s : State) (e : Fault) : execEmit s ≠ .fault e := by
  unfold execEmit
  split
  · split <;> nofun
  · nofun

/-- Settles O40: the emitter's two instructions complete on the geometry unit and never fault, and the others act on
their unit. -/
theorem everyInstructionCompletes : Obligations.EveryInstructionCompletes := by
  unfold Obligations.EveryInstructionCompletes
  intro i s
  obtain rfl | ⟨v, p, w, rfl⟩ | hunit := exec_actsOnUnit i
  · exact ⟨fun hcur _ hslot => ⟨_, execEmit_of_gs hcur (slot_lt_three hslot)⟩, fun _ _ hne => absurd rfl hne,
      fun e h => absurd h (execEmit_ne_fault s e)⟩
  · exact ⟨fun hcur _ _ => ⟨_, execSetemit_of_gs hcur v p w⟩, fun _ _ _ hne => absurd rfl (hne v p w),
      fun e h => absurd h (execSetemit_ne_fault v p w s e)⟩
  · exact ⟨fun _ hroom _ => hunit.completes hroom, fun _ hroom _ _ => hunit.completes hroom,
      fun _ => hunit.fault_is_overflow⟩

/-! ### The vertex unit alone -/

/-- Settles O43: on the vertex unit the emitter's two instructions do not complete, and the others act on their unit. -/
theorem vertexUnitIgnoresGeometryUnit : Obligations.VertexUnitIgnoresGeometryUnit := by
  unfold Obligations.VertexUnitIgnoresGeometryUnit
  intro i s t s' hcur hcur' hvs hhreg h
  obtain rfl | ⟨v, p, w, rfl⟩ | hunit := exec_actsOnUnit i
  · exact nomatch (execEmit_of_vs hcur).symm.trans h
  · exact nomatch (execSetemit_of_vs hcur v p w).symm.trans h
  · have hcurUnit : s'.curUnit = s.curUnit := by unfold State.curUnit; rw [hcur, hcur']; exact hvs
    obtain ⟨t', ht', hsame⟩ := hunit.same_unit (hcur'.trans hcur.symm) hcurUnit hhreg h
    rw [hcur] at hsame
    exact ⟨t', ht', hsame⟩

/-! ### The rights of a shader (R277) -/

/-- A step of a unit writes its general and special registers, its pc, its call stack and its run state alone. -/
theorem UnitStep.eq_with {x y : ShaderUnit} (h : UnitStep x y) :
    y = { x with
      o := y.o, r := y.r, pc := y.pc, a0x := y.a0x, a0y := y.a0y, al := y.al, ccx := y.ccx, ccy := y.ccy, stk := y.stk,
      run := y.run } := by
  rw [← h.prog, ← h.swz, ← h.c, ← h.v, ← h.fuBuf, ← h.fuN]

theorem vout_prefix_of_exec {i : Instr} {s t : State} (h : exec i s = .next t) : s.vout <+: t.vout := by
  obtain ⟨x, l, rfl, -⟩ | ⟨-, em, es, rfl⟩ := exec_next_cases i s t h
  · exact (State.vout_setCur s x).symm ▸ List.prefix_rfl
  · exact List.prefix_append s.vout es

/-- Settles O41: a step of the executing unit with its log, or the geometry unit's emitter and FIFO with its pc. -/
theorem shaderWritesOnlyItsOwnState : Obligations.ShaderWritesOnlyItsOwnState := by
  unfold Obligations.ShaderWritesOnlyItsOwnState
  intro i s t h
  have hgrow := streamsGrow_exec h
  refine ⟨?state, hgrow.log, vout_prefix_of_exec h, fun a => congrArg (memReadByte · a) hgrow.guest⟩
  obtain ⟨x, l, rfl, hstep⟩ | ⟨hcur, em, es, rfl⟩ := exec_next_cases i s t h
  · have hx := hstep.eq_with
    unfold State.setCur
    unfold State.curUnit State.unit at hx
    cases hcur : s.cur
    case vs | gs =>
      rw [hcur] at hx
      simp only [State.setUnit, reduceCtorEq, if_true, if_false]
      rw [← hx]
  · simp only [hcur, reduceCtorEq, if_true, if_false]

end Sys2Proof.Machine

/-! SUPPORT. The state after reset (70_reset_and_hazards.md R285): the canonical values and the invariant of it, and what
the registers that R285 gives a value hold. -/

namespace Sys2Proof.Machine

/-! ### A unit after reset -/

@[simp] theorem State.unit_reset (u : UnitId) : State.reset.unit u = ShaderUnit.reset := by cases u <;> rfl

theorem canonicalVec_zeroVec : CanonicalVec zeroVec :=
  have hzero : Canonical 0#24 := canonical_zeroF false
  ⟨hzero, hzero, hzero, hzero⟩

theorem canonicalFile_replicate (n : Nat) {v : Vec4} (hv : CanonicalVec v) : CanonicalFile (Vector.replicate n v) := by
  intro i
  rw [Fin.getElem_fin, Vector.getElem_replicate]
  exact hv

/-- Every register file of the model holds zeros at reset (assumptions 4 and 6). -/
theorem canonicalFile_zeros (n : Nat) : CanonicalFile (Vector.replicate n zeroVec) :=
  canonicalFile_replicate n canonicalVec_zeroVec

theorem unitCanonical_reset : UnitCanonical ShaderUnit.reset where
  temporaries := canonicalFile_zeros 16
  outputs := canonicalFile_zeros 16
  inputs := canonicalFile_zeros 16
  uniforms := canonicalFile_zeros 96

theorem unitLegal_reset (u : UnitId) : UnitLegal u ShaderUnit.reset where
  prog_rising := List.Pairwise.nil
  prog_inRange := fun _ hp => nomatch hp
  swz_rising := List.Pairwise.nil
  swz_inRange := fun _ hp => nomatch hp
  stack_bounded := Nat.zero_le _
  assembly_bounded := Nat.zero_lt_succ 3

/-! ### The block after reset -/

theorem emitterCanonical_reset : EmitterCanonical State.reset.em := by
  intro j
  change CanonicalFile (Vector.replicate 3 (Vector.replicate 16 zeroVec))[j]
  rw [Fin.getElem_fin, Vector.getElem_replicate]
  exact canonicalFile_zeros 16

theorem legal_reset : State.reset.Legal where
  vs_legal := unitLegal_reset .vs
  gs_legal := unitLegal_reset .gs
  one_unit := .inl rfl
  backend_legal := trivial
  assembler_bounded := Nat.zero_le 2
  hreg_canonical := reset_hreg_canonical
  guest_canonical := reset_guest_wf
  defattr_bounded := Nat.zero_lt_succ 2
  immediate_bounded := Nat.zero_lt_succ 15
  burst_nonempty := fun _ _ hcl => nomatch hcl

theorem allCanonical_reset : State.reset.AllCanonical where
  vs_canonical := unitCanonical_reset
  gs_canonical := unitCanonical_reset
  point_canonical := fun _ _ _ _ hgp => nomatch hgp
  emitter_canonical := emitterCanonical_reset
  fifo_canonical := fun _ ha => nomatch ha
  assembler_canonical := ⟨(fun _ hv => nomatch hv), (fun _ hv => nomatch hv)⟩
  triangles_canonical := fun _ ht => nomatch ht
  immediate_canonical := canonicalFile_zeros 16
  draw_canonical := fun _ hd => nomatch hd

/-- Settles O6: the units and the files behind them hold zeros, and every store, stream and list is empty. -/
theorem resetLegal : Obligations.ResetLegal := by
  unfold Obligations.ResetLegal
  exact ⟨legal_reset, allCanonical_reset⟩

/-! ### The host registers after reset -/

@[simp] theorem hregRead_reset (id : Nat) : State.reset.hregRead id = hregReset id := rfl

theorem hregReset_inMap_low (u : UnitId) : hregReset (regInMap u) = 0x76543210#32 := by cases u <;> rfl

theorem hregReset_inMap_high (u : UnitId) : hregReset (regInMap u + 1) = 0xFEDCBA98#32 := by cases u <;> rfl

/-- Each of the eight digits of the low map word is its own place. -/
theorem identityMap_low : ∀ i < 8, (0x76543210#32).toNat / 2 ^ (4 * i) % 16 = i := by decide

/-- Each of the eight digits of the high map word is its own place, counted from 8. -/
theorem identityMap_high : ∀ i < 8, (0xFEDCBA98#32).toNat / 2 ^ (4 * i) % 16 = i + 8 := by decide

theorem inMap_reset (u : UnitId) (i : Fin 16) : State.reset.inMap u i = i := by
  apply Fin.ext
  rcases Nat.lt_or_ge i.val 8 with hlow | hhigh
  · rw [val_inMap_of_lt _ _ hlow, hregRead_reset, hregReset_inMap_low, identityMap_low _ hlow]
  · have hplace : i.val - 8 < 8 := by omega
    rw [val_inMap_of_le _ _ hhigh, hregRead_reset, hregReset_inMap_high, identityMap_high _ hplace,
      Nat.sub_add_cancel hhigh]

/-- The word of `REG_GS_USE` is 0 at reset, hence `USE_GS` is No (R254). -/
theorem useGs_reset : State.reset.useGs = 0 := rfl

/-- The word of `REG_GS_SHARED` is 0 at reset, hence the exclusive bit is clear (R255). -/
theorem gsShared_reset : State.reset.gsShared = true := (gsShared_iff _).mpr rfl

/-! ### The table of R285 -/

/-- The address registers, conditional codes, stack, run state and word counter of a unit. -/
theorem shaderUnit_reset_control :
    ShaderUnit.reset.a0x = 0 ∧ ShaderUnit.reset.a0y = 0 ∧ ShaderUnit.reset.al = 0 ∧ ShaderUnit.reset.ccx = false ∧
      ShaderUnit.reset.ccy = false ∧ ShaderUnit.reset.stk = [] ∧ ShaderUnit.reset.run = .idle ∧
      ShaderUnit.reset.fuN = 0 :=
  ⟨rfl, rfl, rfl, rfl, rfl, rfl, rfl, rfl⟩

/-- Settles O8, row by row: the units', with their input maps, then the rest of the block's. -/
theorem resetControlState : Obligations.ResetControlState := by
  unfold Obligations.ResetControlState
  refine ⟨fun u => ?units, ?vertexId, ?primEmit, ?emWinding, ?gp, ?vout, useGs_reset, gsShared_reset, ?idx, ?stripReady,
    ?paWinding, ?immN, ?daN, ?cl, ?log⟩
  case units =>
    rw [State.unit_reset]
    obtain ⟨ha0x, ha0y, hal, hccx, hccy, hstk, hrun, hfuN⟩ := shaderUnit_reset_control
    exact ⟨ha0x, ha0y, hal, hccx, hccy, hstk, hrun, hfuN, inMap_reset u⟩
  all_goals rfl

end Sys2Proof.Machine

/-! SUPPORT. The opcode map (30_encoding.md R78) as one table from opcodes to formats, with what each format reads of a
word (R61 to R65, R73 to R76) and which bits it ignores (R80): the decoder is this table. -/

namespace Sys2Proof.Machine

open Sys2Proof.Claims

/-! ### Parts of a word -/

/-- Bytes are decoded from the front: a word's four, then whatever follows (R42, R60). -/
theorem decode_wordBytes_append (w : Word) (rest : List Byte) :
    decode (wordBytes w ++ rest) = .ok (decodeWord w, rest) :=
  congrArg (fun v => Except.ok (decodeWord v, rest)) (wordOfBytes_fields w)

/-- A part of a field is a field of the word. -/
theorem extractLsb'_field (w : Word) {lo n i k : Nat} (h : i + k ≤ n) :
    (field w lo n).extractLsb' i k = field w (lo + i) k := by
  apply BitVec.eq_of_getLsbD_eq
  intro j hj
  have hin : i + j < n := by omega
  simp [field, hin, Nat.add_assoc]

/-- A mask that is all ones over a field keeps it. -/
theorem field_and_of_allOnes {w m : Word} {lo n : Nat} (h : field m lo n = BitVec.allOnes n) :
    field (w &&& m) lo n = field w lo n := by
  have hand : field (w &&& m) lo n = field w lo n &&& field m lo n := BitVec.extractLsb'_and
  rw [hand, h, BitVec.and_allOnes]

/-- A mask with the bit set keeps a flag. -/
theorem flagAt_and_of_set {w m : Word} {i : Nat} (h : flagAt m i = true) : flagAt (w &&& m) i = flagAt w i := by
  unfold flagAt at *
  rw [BitVec.getLsbD_and, h, Bool.and_true]

/-- The uniform number of a wide field is at most 0x7F - 0x20 (R66). -/
theorem wideOf_wellFormed (b : BitVec 7) : (wideOf b).wellFormed = true := by
  unfold wideOf
  split_ifs with hv hr
  · rfl
  · rfl
  · exact decide_eq_true (by bv_omega)

/-! ### The formats -/

/-- The format of an opcode, with the instruction it makes of its operands; only the wide source can fail to have an
encoding (R66). -/
inductive WordFormat where
  | one (mk : Dest → AddrIdx → WideSrc → NarrowSrc → BitVec 7 → Instr)
      (wf : ∀ d i s t k, (mk d i s t k).wellFormed = s.wellFormed := by intros; rfl)
  | oneU (mk : Dest → AddrIdx → WideSrc → BitVec 7 → Instr)
      (wf : ∀ d i s k, (mk d i s k).wellFormed = s.wellFormed := by intros; rfl)
  | oneI (mk : Dest → AddrIdx → NarrowSrc → WideSrc → BitVec 7 → Instr)
      (wf : ∀ d i t s k, (mk d i t s k).wellFormed = s.wellFormed := by intros; rfl)
  | mova
  | zero (i : Instr) (wf : i.wellFormed = true := by rfl)
  | two (mk : Bool → Bool → CondOp → BitVec 12 → BitVec 8 → Instr)
      (wf : ∀ x y c t n, (mk x y c t n).wellFormed = true := by intros; rfl)
  | call
  | jmpc
  | three (mk : Fin 16 → BitVec 12 → BitVec 8 → Instr)
      (wf : ∀ b t n, (mk b t n).wellFormed = true := by intros; rfl)
  | loop
  | jmpu
  | four
  | oneC
  | fiveI
  | five

/-- The instruction that a format reads from a word (R61 to R65, R73 to R76). -/
def WordFormat.read (w : Word) : WordFormat → Instr
  | .one mk _ => mk (destOf (field w 21 5)) (idxOf (field w 19 2)) (wideOf (field w 12 7)) (narrowOf (field w 7 5)) (field w 0 7)
  | .oneU mk _ => mk (destOf (field w 21 5)) (idxOf (field w 19 2)) (wideOf (field w 12 7)) (field w 0 7)
  | .oneI mk _ => mk (destOf (field w 21 5)) (idxOf (field w 19 2)) (narrowOf (field w 14 5)) (wideOf (field w 7 7)) (field w 0 7)
  | .mova => .mova (idxOf (field w 19 2)) (wideOf (field w 12 7)) (field w 0 7)
  | .zero i _ => i
  | .two mk _ => mk (flagAt w 25) (flagAt w 24) (condOf (field w 22 2)) (field w 10 12) (field w 0 8)
  | .call => .call (field w 10 12) (field w 0 8)
  | .jmpc => .jmpc (flagAt w 25) (flagAt w 24) (condOf (field w 22 2)) (field w 10 12)
  | .three mk _ => mk (boolIdOf (field w 22 4)) (field w 10 12) (field w 0 8)
  | .loop => .loop (intIdOf (field w 22 2)) (field w 10 12)
  | .jmpu => .jmpu (boolIdOf (field w 22 4)) (field w 10 12) (flagAt w 0)
  | .four => .setemit (field w 24 2) (flagAt w 23) (flagAt w 22)
  | .oneC => .cmp (cmpOf (field w 24 3)) (cmpOf (field w 21 3)) (idxOf (field w 19 2)) (wideOf (field w 12 7)) (narrowOf (field w 7 5)) (field w 0 7)
  | .fiveI => .madi (destOf (field w 24 5)) (idxOf (field w 22 2)) (narrowOf (field w 17 5)) (narrowOf (field w 12 5)) (wideOf (field w 5 7)) (field w 0 5)
  | .five => .mad (destOf (field w 24 5)) (idxOf (field w 22 2)) (narrowOf (field w 17 5)) (wideOf (field w 10 7)) (narrowOf (field w 5 5)) (field w 0 5)

/-- The bits that a format reads, with those of the opcode (R80). -/
def WordFormat.used : WordFormat → Word
  | .oneU .. => 0xFFFFF07F#32
  | .mova => 0xFC1FF07F#32
  | .zero .. => 0xFC000000#32
  | .two .. | .three .. => 0xFFFFFCFF#32
  | .call => 0xFC3FFCFF#32
  | .jmpc => 0xFFFFFC00#32
  | .loop => 0xFCFFFC00#32
  | .jmpu => 0xFFFFFC01#32
  | .four => 0xFFC00000#32
  | .one .. | .oneI .. | .oneC | .fiveI | .five => 0xFFFFFFFF#32

/-- A format reads no other bits. -/
theorem WordFormat.read_and_used (f : WordFormat) (w : Word) : f.read (w &&& f.used) = f.read w := by
  cases f <;> simp (disch := decide) only [read, used, field_and_of_allOnes, flagAt_and_of_set]

/-- What a format reads is well formed, its wide source being a field (R66). -/
theorem WordFormat.read_wellFormed (f : WordFormat) (w : Word) : (f.read w).wellFormed = true := by
  cases f
  case one mk wf | oneU mk wf | oneI mk wf => exact (wf ..).trans (wideOf_wellFormed _)
  case mova | oneC | fiveI | five => exact wideOf_wellFormed _
  case zero i wf => exact wf
  case two mk wf | three mk wf => exact wf ..
  case call | jmpc | loop | jmpu | four => rfl

/-! ### The opcode map -/

/-- The opcode map (R78). The opcodes from 0x2E are those of the formats with a shorter opcode field (R64, R65). -/
def formatOf (op : BitVec 6) : WordFormat :=
  if op = 0x00#6 then .one .add else
  if op = 0x01#6 then .one .dp3 else
  if op = 0x02#6 then .one .dp4 else
  if op = 0x03#6 then .one .dph else
  if op = 0x04#6 then .one .dst else
  if op = 0x05#6 then .oneU .ex2 else
  if op = 0x06#6 then .oneU .lg2 else
  if op = 0x07#6 then .oneU .lit else
  if op = 0x08#6 then .one .mul else
  if op = 0x09#6 then .one .sge else
  if op = 0x0A#6 then .one .slt else
  if op = 0x0B#6 then .oneU .flr else
  if op = 0x0C#6 then .one .max else
  if op = 0x0D#6 then .one .min else
  if op = 0x0E#6 then .oneU .rcp else
  if op = 0x0F#6 then .oneU .rsq else
  if op = 0x10#6 then .zero .unassigned10 else
  if op = 0x11#6 then .zero .unassigned11 else
  if op = 0x12#6 then .mova else
  if op = 0x13#6 then .oneU .mov else
  if op = 0x14#6 then .zero .unassigned14 else
  if op = 0x15#6 then .zero .unassigned15 else
  if op = 0x16#6 then .zero .unassigned16 else
  if op = 0x17#6 then .zero .unassigned17 else
  if op = 0x18#6 then .oneI .dphi else
  if op = 0x19#6 then .oneI .dsti else
  if op = 0x1A#6 then .oneI .sgei else
  if op = 0x1B#6 then .oneI .slti else
  if op = 0x1C#6 then .zero .unassigned1C else
  if op = 0x1D#6 then .zero .unassigned1D else
  if op = 0x1E#6 then .zero .unassigned1E else
  if op = 0x1F#6 then .zero .unassigned1F else
  if op = 0x20#6 then .zero .brk else
  if op = 0x21#6 then .zero .nop else
  if op = 0x22#6 then .zero .endProg else
  if op = 0x23#6 then .two .breakc else
  if op = 0x24#6 then .call else
  if op = 0x25#6 then .two .callc else
  if op = 0x26#6 then .three .callu else
  if op = 0x27#6 then .three .ifu else
  if op = 0x28#6 then .two .ifc else
  if op = 0x29#6 then .loop else
  if op = 0x2A#6 then .zero .emit else
  if op = 0x2B#6 then .four else
  if op = 0x2C#6 then .jmpc else
  if op = 0x2D#6 then .jmpu else
  if op.extractLsb' 1 5 = 0x17#5 then .oneC else
  if op.extractLsb' 3 3 = 0b110#3 then .fiveI else .five

/-- The decoder is the opcode map and the formats. -/
theorem decodeWord_eq_read (w : Word) : decodeWord w = (formatOf (field w 26 6)).read w := by
  have hfive : (field w 26 6).extractLsb' 1 5 = field w 27 5 := extractLsb'_field w (by decide)
  have hthree : (field w 26 6).extractLsb' 3 3 = field w 29 3 := extractLsb'_field w (by decide)
  simp only [decodeWord, formatOf, hfive, hthree, apply_ite (WordFormat.read w)]
  simp only [WordFormat.read]

theorem usedBits_eq_used : ∀ op : BitVec 6, usedBits op = (formatOf op).used := by decide

/-- The bits that are used include the opcode. -/
theorem opcode_usedBits : ∀ op : BitVec 6, field (usedBits op) 26 6 = BitVec.allOnes 6 := by decide

theorem formatOf_of_le {op : BitVec 6} (h : 0x2E ≤ op.toNat) : formatOf op =
    if op.extractLsb' 1 5 = 0x17#5 then .oneC else if op.extractLsb' 3 3 = 0b110#3 then .fiveI else .five := by
  have hne : ∀ c : BitVec 6, c.toNat < 0x2E → op ≠ c := by
    rintro _ hc rfl
    omega
  simp [formatOf, hne]

/-- Settles O2: the bits a format reads are all it depends on, and the opcode that selects the format is among them. -/
theorem ignoredBitsHaveNoEffect : Obligations.IgnoredBitsHaveNoEffect := by
  unfold Obligations.IgnoredBitsHaveNoEffect
  intro w
  rw [decodeWord_eq_read, decodeWord_eq_read, field_and_of_allOnes (opcode_usedBits _), usedBits_eq_used,
    WordFormat.read_and_used]

/-- The decoder refuses what is shorter than a word, and nothing else (R60, R79). -/
theorem decode_error_iff (bytes : List Byte) : (∃ e, decode bytes = .error e) ↔ bytes.length < 4 := by
  match bytes with
  | [] | [_] | [_, _] | [_, _, _] => exact iff_of_true ⟨.truncated, rfl⟩ (by simp)
  | _ :: _ :: _ :: _ :: rest =>
    refine iff_of_false (fun ⟨_, h⟩ => nomatch h) ?_
    simp only [List.length_cons]
    omega

/-- Settles O3: a word is read by some format, whose sources are fields, and bytes are refused only below four. -/
theorem everyWordDecodes : Obligations.EveryWordDecodes := by
  unfold Obligations.EveryWordDecodes
  refine ⟨fun w rest => ⟨?wellFormed, decode_wordBytes_append w rest⟩, decode_error_iff⟩
  rw [decodeWord_eq_read]
  exact WordFormat.read_wellFormed _ w

end Sys2Proof.Machine

/-! SUPPORT. Packing and reading back: each operand field is the inverse of its bits (30_encoding.md R66 to R69, R73,
R74), and each format reads from a packed word the operands that were packed. -/

namespace Sys2Proof.Machine

open Sys2Proof.Laws.OpcodeRow (destBits_lt narrowBits_lt wideBits_lt idxBits_lt cmpBits_lt condBits_lt)

/-! ### Operand fields and their bits -/

theorem destOf_destBits (d : Dest) : destOf (BitVec.ofNat 5 (destBits d)) = d := by
  cases d with
  | o n => revert n; decide
  | r n => revert n; decide

theorem narrowOf_narrowBits (s : NarrowSrc) : narrowOf (BitVec.ofNat 5 (narrowBits s)) = s := by
  cases s with
  | v n => revert n; decide
  | r n => revert n; decide

theorem wideOf_wideBits {s : WideSrc} (h : s.wellFormed = true) : wideOf (BitVec.ofNat 7 (wideBits s)) = s := by
  cases s with
  | v n => clear h; revert n; decide
  | r n => clear h; revert n; decide
  | c n => revert n; decide

theorem idxOf_idxBits (i : AddrIdx) : idxOf (BitVec.ofNat 2 (idxBits i)) = i := by cases i <;> rfl

theorem cmpOf_cmpBits (c : CmpOp) : cmpOf (BitVec.ofNat 3 (cmpBits c)) = c := by cases c <;> rfl

theorem condOf_condBits (c : CondOp) : condOf (BitVec.ofNat 2 (condBits c)) = c := by cases c <;> rfl

theorem boolIdOf_val : ∀ b : Fin 16, boolIdOf (BitVec.ofNat 4 b.val) = b := by decide

theorem intIdOf_val : ∀ n : Fin 4, intIdOf (BitVec.ofNat 2 n.val) = n := by decide

/-! ### Fields of a packed word -/

section
variable {a lo : Nat}

/-- A field of a word that is given as a number. -/
theorem field_ofNat {n x : Nat} (h : a % 2 ^ 32 / 2 ^ lo % 2 ^ n = x) :
    field (BitVec.ofNat 32 a) lo n = BitVec.ofNat n x := by
  apply BitVec.eq_of_toNat_eq
  have hx : x < 2 ^ n := h ▸ Nat.mod_lt _ (Nat.two_pow_pos n)
  rw [toNat_field, BitVec.toNat_ofNat, BitVec.toNat_ofNat, h, Nat.mod_eq_of_lt hx]

theorem field_ofNat_toNat {n : Nat} {x : BitVec n} (h : a % 2 ^ 32 / 2 ^ lo % 2 ^ n = x.toNat) :
    field (BitVec.ofNat 32 a) lo n = x := by
  rw [field_ofNat h, BitVec.ofNat_toNat, BitVec.setWidth_eq]

theorem field_ofNat_ne {n x : Nat} (h : a % 2 ^ 32 / 2 ^ lo % 2 ^ n ≠ x % 2 ^ n) :
    field (BitVec.ofNat 32 a) lo n ≠ BitVec.ofNat n x := by
  intro heq
  have htoNat := congrArg BitVec.toNat heq
  rw [toNat_field, BitVec.toNat_ofNat, BitVec.toNat_ofNat] at htoNat
  exact h htoNat

theorem flagAt_ofNat {x : Bool} (h : a % 2 ^ 32 / 2 ^ lo % 2 = x.toNat) : flagAt (BitVec.ofNat 32 a) lo = x := by
  rw [flagAt, BitVec.getLsbD, BitVec.toNat_ofNat, Nat.testBit_eq_decide_div_mod_eq, h]
  cases x <;> rfl

theorem destOf_ofNat {d : Dest} (h : a % 2 ^ 32 / 2 ^ lo % 2 ^ 5 = destBits d) :
    destOf (field (BitVec.ofNat 32 a) lo 5) = d := by
  rw [field_ofNat h, destOf_destBits]

theorem narrowOf_ofNat {s : NarrowSrc} (h : a % 2 ^ 32 / 2 ^ lo % 2 ^ 5 = narrowBits s) :
    narrowOf (field (BitVec.ofNat 32 a) lo 5) = s := by
  rw [field_ofNat h, narrowOf_narrowBits]

theorem wideOf_ofNat {s : WideSrc} (hs : s.wellFormed = true) (h : a % 2 ^ 32 / 2 ^ lo % 2 ^ 7 = wideBits s) :
    wideOf (field (BitVec.ofNat 32 a) lo 7) = s := by
  rw [field_ofNat h, wideOf_wideBits hs]

theorem idxOf_ofNat {i : AddrIdx} (h : a % 2 ^ 32 / 2 ^ lo % 2 ^ 2 = idxBits i) :
    idxOf (field (BitVec.ofNat 32 a) lo 2) = i := by
  rw [field_ofNat h, idxOf_idxBits]

theorem cmpOf_ofNat {c : CmpOp} (h : a % 2 ^ 32 / 2 ^ lo % 2 ^ 3 = cmpBits c) :
    cmpOf (field (BitVec.ofNat 32 a) lo 3) = c := by
  rw [field_ofNat h, cmpOf_cmpBits]

theorem condOf_ofNat {c : CondOp} (h : a % 2 ^ 32 / 2 ^ lo % 2 ^ 2 = condBits c) :
    condOf (field (BitVec.ofNat 32 a) lo 2) = c := by
  rw [field_ofNat h, condOf_condBits]

theorem boolIdOf_ofNat {b : Fin 16} (h : a % 2 ^ 32 / 2 ^ lo % 2 ^ 4 = b.val) :
    boolIdOf (field (BitVec.ofNat 32 a) lo 4) = b := by
  rw [field_ofNat h, boolIdOf_val]

theorem intIdOf_ofNat {n : Fin 4} (h : a % 2 ^ 32 / 2 ^ lo % 2 ^ 2 = n.val) :
    intIdOf (field (BitVec.ofNat 32 a) lo 2) = n := by
  rw [field_ofNat h, intIdOf_val]

/-- A word with the opcode of a format is read by that format. -/
theorem decodeWord_ofNat {op : Nat} {f : WordFormat} (hf : formatOf (BitVec.ofNat 6 op) = f)
    (hop : a % 2 ^ 32 / 2 ^ 26 % 2 ^ 6 = op) : decodeWord (BitVec.ofNat 32 a) = f.read (BitVec.ofNat 32 a) := by
  rw [decodeWord_eq_read, field_ofNat hop, hf]

end

/-! ### Packed words, format by format -/

section
variable {op : Nat} (hop : op < 64)
include hop

/-- Format 1 (R61). -/
theorem decodeWord_packFormat1 {mk wf} (hf : formatOf (BitVec.ofNat 6 op) = .one mk wf) (d : Dest) (i : AddrIdx)
    {s1 : WideSrc} (hs : s1.wellFormed = true) (s2 : NarrowSrc) (k : BitVec 7) :
    decodeWord (packFormat1 op (destBits d) (idxBits i) (wideBits s1) (narrowBits s2) k.toNat) = mk d i s1 s2 k := by
  have hd := destBits_lt d
  have hi := idxBits_lt i
  have h1 := wideBits_lt s1 hs
  have h2 := narrowBits_lt s2
  have hk := k.isLt
  rw [packFormat1, decodeWord_ofNat hf (by omega), WordFormat.read]
  congr 1
  · exact destOf_ofNat (by omega)
  · exact idxOf_ofNat (by omega)
  · exact wideOf_ofNat hs (by omega)
  · exact narrowOf_ofNat (by omega)
  · exact field_ofNat_toNat (by omega)

/-- Format 1u (R63). -/
theorem decodeWord_packFormat1u {mk wf} (hf : formatOf (BitVec.ofNat 6 op) = .oneU mk wf) (d : Dest) (i : AddrIdx)
    {s1 : WideSrc} (hs : s1.wellFormed = true) (k : BitVec 7) :
    decodeWord (packFormat1 op (destBits d) (idxBits i) (wideBits s1) 0 k.toNat) = mk d i s1 k := by
  have hd := destBits_lt d
  have hi := idxBits_lt i
  have h1 := wideBits_lt s1 hs
  have hk := k.isLt
  rw [packFormat1, decodeWord_ofNat hf (by omega), WordFormat.read]
  congr 1
  · exact destOf_ofNat (by omega)
  · exact idxOf_ofNat (by omega)
  · exact wideOf_ofNat hs (by omega)
  · exact field_ofNat_toNat (by omega)

/-- Format 1i (R62). -/
theorem decodeWord_packFormat1i {mk wf} (hf : formatOf (BitVec.ofNat 6 op) = .oneI mk wf) (d : Dest) (i : AddrIdx)
    (s1 : NarrowSrc) {s2 : WideSrc} (hs : s2.wellFormed = true) (k : BitVec 7) :
    decodeWord (packFormat1i op (destBits d) (idxBits i) (narrowBits s1) (wideBits s2) k.toNat) = mk d i s1 s2 k := by
  have hd := destBits_lt d
  have hi := idxBits_lt i
  have h1 := narrowBits_lt s1
  have h2 := wideBits_lt s2 hs
  have hk := k.isLt
  rw [packFormat1i, decodeWord_ofNat hf (by omega), WordFormat.read]
  congr 1
  · exact destOf_ofNat (by omega)
  · exact idxOf_ofNat (by omega)
  · exact narrowOf_ofNat (by omega)
  · exact wideOf_ofNat hs (by omega)
  · exact field_ofNat_toNat (by omega)

/-- Format 2 (R73). -/
theorem decodeWord_packFormat2 {mk wf} (hf : formatOf (BitVec.ofNat 6 op) = .two mk wf) (x y : Bool) (c : CondOp)
    (t : BitVec 12) (n : BitVec 8) :
    decodeWord (packFormat2 op x y (condBits c) t.toNat n.toNat) = mk x y c t n := by
  have hx := x.toNat_lt
  have hy := y.toNat_lt
  have hc := condBits_lt c
  have ht := t.isLt
  have hn := n.isLt
  rw [packFormat2, decodeWord_ofNat hf (by omega), WordFormat.read]
  congr 1
  · exact flagAt_ofNat (by omega)
  · exact flagAt_ofNat (by omega)
  · exact condOf_ofNat (by omega)
  · exact field_ofNat_toNat (by omega)
  · exact field_ofNat_toNat (by omega)

/-- Format 3 of CALLU and IFU (R74). -/
theorem decodeWord_packFormat3 {mk wf} (hf : formatOf (BitVec.ofNat 6 op) = .three mk wf) (b : Fin 16) (t : BitVec 12)
    (n : BitVec 8) : decodeWord (packFormat3 op b.val t.toNat n.toNat) = mk b t n := by
  have hb := b.isLt
  have ht := t.isLt
  have hn := n.isLt
  rw [packFormat3, decodeWord_ofNat hf (by omega), WordFormat.read]
  congr 1
  · exact boolIdOf_ofNat (by omega)
  · exact field_ofNat_toNat (by omega)
  · exact field_ofNat_toNat (by omega)

/-- Format 0 (R76) and the unassigned opcodes (R79). -/
theorem decodeWord_packOpcode {i wf} (hf : formatOf (BitVec.ofNat 6 op) = .zero i wf) : decodeWord (packOpcode op) = i := by
  rw [packOpcode, decodeWord_ofNat hf (by omega), WordFormat.read]

end

/-! ### Packed words of the formats with one instruction -/

/-- MOVA has no destination field (R63). -/
theorem decodeWord_encodeWord_mova (i : AddrIdx) {s : WideSrc} (hs : s.wellFormed = true) (k : BitVec 7) :
    decodeWord (encodeWord (.mova i s k)) = .mova i s k := by
  have hi := idxBits_lt i
  have h := wideBits_lt s hs
  have hk := k.isLt
  rw [encodeWord, packFormat1, decodeWord_ofNat (op := 0x12) (f := .mova) rfl (by omega), WordFormat.read]
  congr 1
  · exact idxOf_ofNat (by omega)
  · exact wideOf_ofNat hs (by omega)
  · exact field_ofNat_toNat (by omega)

theorem decodeWord_encodeWord_call (t : BitVec 12) (n : BitVec 8) :
    decodeWord (encodeWord (.call t n)) = .call t n := by
  have ht := t.isLt
  have hn := n.isLt
  rw [encodeWord, packFormat2, Bool.toNat_false, decodeWord_ofNat (op := 0x24) (f := .call) rfl (by omega), WordFormat.read]
  congr 1
  · exact field_ofNat_toNat (by omega)
  · exact field_ofNat_toNat (by omega)

theorem decodeWord_encodeWord_jmpc (x y : Bool) (c : CondOp) (t : BitVec 12) :
    decodeWord (encodeWord (.jmpc x y c t)) = .jmpc x y c t := by
  have hx := x.toNat_lt
  have hy := y.toNat_lt
  have hc := condBits_lt c
  have ht := t.isLt
  rw [encodeWord, packFormat2, decodeWord_ofNat (op := 0x2C) (f := .jmpc) rfl (by omega), WordFormat.read]
  congr 1
  · exact flagAt_ofNat (by omega)
  · exact flagAt_ofNat (by omega)
  · exact condOf_ofNat (by omega)
  · exact field_ofNat_toNat (by omega)

theorem decodeWord_encodeWord_loop (n : Fin 4) (t : BitVec 12) :
    decodeWord (encodeWord (.loop n t)) = .loop n t := by
  have hn := n.isLt
  have ht := t.isLt
  rw [encodeWord, packFormat3, decodeWord_ofNat (op := 0x29) (f := .loop) rfl (by omega), WordFormat.read]
  congr 1
  · exact intIdOf_ofNat (by omega)
  · exact field_ofNat_toNat (by omega)

theorem decodeWord_encodeWord_jmpu (b : Fin 16) (t : BitVec 12) (inv : Bool) :
    decodeWord (encodeWord (.jmpu b t inv)) = .jmpu b t inv := by
  have hb := b.isLt
  have ht := t.isLt
  have hinv := inv.toNat_lt
  rw [encodeWord, packFormat3, decodeWord_ofNat (op := 0x2D) (f := .jmpu) rfl (by omega), WordFormat.read]
  congr 1
  · exact boolIdOf_ofNat (by omega)
  · exact field_ofNat_toNat (by omega)
  · exact flagAt_ofNat (by omega)

/-- Format 4 (R75). -/
theorem decodeWord_encodeWord_setemit (v : BitVec 2) (p x : Bool) :
    decodeWord (encodeWord (.setemit v p x)) = .setemit v p x := by
  have hv := v.isLt
  have hp := p.toNat_lt
  have hx := x.toNat_lt
  rw [encodeWord, decodeWord_ofNat (op := 0x2B) (f := .four) rfl (by omega), WordFormat.read]
  congr 1
  · exact field_ofNat_toNat (by omega)
  · exact flagAt_ofNat (by omega)
  · exact flagAt_ofNat (by omega)

/-! ### Packed words of the formats with a shorter opcode -/

/-- The word of a format with a shorter opcode field is told by that field (R64, R65). -/
theorem decodeWord_of_le {w : Word} (h : 0x2E ≤ (field w 26 6).toNat) : decodeWord w =
    (if field w 27 5 = 0x17#5 then WordFormat.oneC else if field w 29 3 = 0b110#3 then .fiveI else .five).read w := by
  rw [decodeWord_eq_read, formatOf_of_le h, extractLsb'_field w (by decide), extractLsb'_field w (by decide)]

/-- Format 1c (R64). -/
theorem decodeWord_encodeWord_cmp (x y : CmpOp) (i : AddrIdx) {s1 : WideSrc} (hs : s1.wellFormed = true)
    (s2 : NarrowSrc) (k : BitVec 7) : decodeWord (encodeWord (.cmp x y i s1 s2 k)) = .cmp x y i s1 s2 k := by
  have hx := cmpBits_lt x
  have hy := cmpBits_lt y
  have hi := idxBits_lt i
  have h1 := wideBits_lt s1 hs
  have h2 := narrowBits_lt s2
  have hk := k.isLt
  rw [encodeWord, decodeWord_of_le (by rw [toNat_field, BitVec.toNat_ofNat]; omega),
    if_pos (field_ofNat (x := 0x17) (by omega)), WordFormat.read]
  congr 1
  · exact cmpOf_ofNat (by omega)
  · exact cmpOf_ofNat (by omega)
  · exact idxOf_ofNat (by omega)
  · exact wideOf_ofNat hs (by omega)
  · exact narrowOf_ofNat (by omega)
  · exact field_ofNat_toNat (by omega)

/-- Format 5i (R65). -/
theorem decodeWord_encodeWord_madi (d : Dest) (i : AddrIdx) (s1 s2 : NarrowSrc) {s3 : WideSrc}
    (hs : s3.wellFormed = true) (k : BitVec 5) :
    decodeWord (encodeWord (.madi d i s1 s2 s3 k)) = .madi d i s1 s2 s3 k := by
  have hd := destBits_lt d
  have hi := idxBits_lt i
  have h1 := narrowBits_lt s1
  have h2 := narrowBits_lt s2
  have h3 := wideBits_lt s3 hs
  have hk := k.isLt
  rw [encodeWord, decodeWord_of_le (by rw [toNat_field, BitVec.toNat_ofNat]; omega),
    if_neg (field_ofNat_ne (x := 0x17) (by omega)), if_pos (field_ofNat (x := 0b110) (by omega)), WordFormat.read]
  congr 1
  · exact destOf_ofNat (by omega)
  · exact idxOf_ofNat (by omega)
  · exact narrowOf_ofNat (by omega)
  · exact narrowOf_ofNat (by omega)
  · exact wideOf_ofNat hs (by omega)
  · exact field_ofNat_toNat (by omega)

/-- Format 5 (R65). -/
theorem decodeWord_encodeWord_mad (d : Dest) (i : AddrIdx) (s1 : NarrowSrc) {s2 : WideSrc}
    (hs : s2.wellFormed = true) (s3 : NarrowSrc) (k : BitVec 5) :
    decodeWord (encodeWord (.mad d i s1 s2 s3 k)) = .mad d i s1 s2 s3 k := by
  have hd := destBits_lt d
  have hi := idxBits_lt i
  have h1 := narrowBits_lt s1
  have h2 := wideBits_lt s2 hs
  have h3 := narrowBits_lt s3
  have hk := k.isLt
  rw [encodeWord, decodeWord_of_le (by rw [toNat_field, BitVec.toNat_ofNat]; omega),
    if_neg (field_ofNat_ne (x := 0x17) (by omega)), if_neg (field_ofNat_ne (x := 0b110) (by omega)), WordFormat.read]
  congr 1
  · exact destOf_ofNat (by omega)
  · exact idxOf_ofNat (by omega)
  · exact narrowOf_ofNat (by omega)
  · exact wideOf_ofNat hs (by omega)
  · exact narrowOf_ofNat (by omega)
  · exact field_ofNat_toNat (by omega)

/-! ### Every instruction -/

/-- The decoder is a left inverse of the encoder on the well-formed instructions (R60 to R78). -/
theorem decodeWord_encodeWord {i : Instr} (h : i.wellFormed = true) : decodeWord (encodeWord i) = i := by
  cases i
  case add | dp3 | dp4 | dph | dst | mul | sge | slt | max | min =>
    exact decodeWord_packFormat1 (by decide) rfl _ _ h _ _
  case ex2 | lg2 | lit | flr | rcp | rsq | mov => exact decodeWord_packFormat1u (by decide) rfl _ _ h _
  case dphi | dsti | sgei | slti => exact decodeWord_packFormat1i (by decide) rfl _ _ _ h _
  case breakc | callc | ifc => exact decodeWord_packFormat2 (by decide) rfl _ _ _ _ _
  case callu | ifu => exact decodeWord_packFormat3 (by decide) rfl _ _ _
  case mova => exact decodeWord_encodeWord_mova _ h _
  case call => exact decodeWord_encodeWord_call _ _
  case jmpc => exact decodeWord_encodeWord_jmpc _ _ _ _
  case loop => exact decodeWord_encodeWord_loop _ _
  case jmpu => exact decodeWord_encodeWord_jmpu _ _ _
  case setemit => exact decodeWord_encodeWord_setemit _ _ _
  case cmp => exact decodeWord_encodeWord_cmp _ _ _ h _ _
  case madi => exact decodeWord_encodeWord_madi _ _ _ _ h _
  case mad => exact decodeWord_encodeWord_mad _ _ _ h _ _
  all_goals exact decodeWord_packOpcode (by decide) rfl

/-- Settles O1: the bytes are those of the encoded word, and its fields are the operands that were packed. -/
theorem decodeEncodeAgree : Obligations.DecodeEncodeAgree := by
  unfold Obligations.DecodeEncodeAgree
  intro i rest h
  rw [decode_wordBytes_append, decodeWord_encodeWord h]

end Sys2Proof.Machine
